-- ==== Sys2Proof/Word.lean ====
section
/-! DEFINITION. The word types of the packet core (00_scope R9, R10): every value is unsigned. -/

namespace Sys2Proof

/-- A byte of a buffer (00_scope R11). -/
abbrev Byte := BitVec 8

/-- A 16-bit word: a checksum word, a length, a buffer offset as a register holds it (00_scope R9). -/
abbrev Half := BitVec 16

/-- A 32-bit register value (10_state R33). -/
abbrev Word := BitVec 32

end Sys2Proof
end

