-- ==== Sys2Proof/Syntax.lean ====
section
/-! DEFINITION. The instructions: one constructor for each row of spec/opcode_table.json, and the five
encodings the rows belong to. -/

namespace Sys2Proof

/-- The five encodings of opcode_table.json (its "format"): the command word (30_encoding R100), the
EtherType under PROC (R106), the IPv4 protocol (R113), the ICMP type (R114), the UDP checksum field
(R115). Which one the engine decodes next is its place in the decode order of R130. -/
inductive Format where
  | c
  | ethClass
  | ipProto
  | icmpType
  | udpCsum
  deriving DecidableEq, Repr

/-- The rows of opcode_table.json. No row but UDP_CSUM has an operand in its own bits: a command takes
its operands from registers (30_encoding R100), a frame row from the frame. -/
inductive Instr where
  /-- PROC, 41_dispatch R173. -/
  | proc
  /-- CSUM, 40_checksum R147. -/
  | csum
  /-- CSUM2, 40_checksum R148. -/
  | csum2
  /-- ARP_REQ: a broadcast frame with EtherType 0x0806, 42_arp R190. -/
  | arpReq
  /-- IPV4_UNICAST: a frame to DEVICE_MAC with EtherType 0x0800, 43_ipv4 R210. -/
  | ipv4Unicast
  /-- ICMP: IPv4 protocol 1, 44_icmp R230. -/
  | icmp
  /-- ICMP_ECHO_REQ: ICMP type 8, 44_icmp R232. -/
  | icmpEchoReq
  /-- UDP: IPv4 protocol 17, 45_udp R250. -/
  | udp
  /-- UDP_CSUM_NONE: the UDP checksum field is 0x0000, 45_udp R253. -/
  | udpCsumNone
  /-- UDP_CSUM_FFFF: the UDP checksum field is 0xFFFF, 45_udp R254. -/
  | udpCsumFfff
  /-- UDP_CSUM: any other stored checksum `s`, 45_udp R254. -/
  | udpCsum (s : Half)
  deriving DecidableEq, Repr

/-- The encoding an instruction's row belongs to (opcode_table.json "format"). -/
def Instr.format : Instr → Format
  | .proc => .c
  | .csum => .c
  | .csum2 => .c
  | .arpReq => .ethClass
  | .ipv4Unicast => .ethClass
  | .icmp => .ipProto
  | .icmpEchoReq => .icmpType
  | .udp => .ipProto
  | .udpCsumNone => .udpCsum
  | .udpCsumFfff => .udpCsum
  | .udpCsum _ => .udpCsum

end Sys2Proof
end

