-- ==== Sys2Proof/WellFormed.lean ====
section
/-! DEFINITION. Which instruction terms stand for a row of the opcode table. -/

namespace Sys2Proof

/-- The one check the table makes on an operand: UDP_CSUM is "any value other than 0x0000 and 0xFFFF". -/
def Instr.wf : Instr → Bool
  | .proc => true
  | .csum => true
  | .csum2 => true
  | .arpReq => true
  | .ipv4Unicast => true
  | .icmp => true
  | .icmpEchoReq => true
  | .udp => true
  | .udpCsumNone => true
  | .udpCsumFfff => true
  | .udpCsum s => decide (s ≠ 0x0000) && decide (s ≠ 0xFFFF)

end Sys2Proof
end

