-- ==== Sys2Proof/Decode.lean ====
section
/-! DEFINITION. The decoder of the five encodings of opcode_table.json, the encoder, and the two
numberings of the table's words. -/

namespace Sys2Proof

/-- A code word as the engine reads it, in the exact width of its encoding (30_encoding R100, R106,
R113, R114, R115; a wire field is its big-endian value, 20_memory R74). -/
inductive Raw where
  | c (w : Word)
  | ethClass (w : Half)
  | ipProto (b : Byte)
  | icmpType (b : Byte)
  | udpCsum (s : Half)
  deriving DecidableEq, Repr

/-- The encoding a code word belongs to. -/
def Raw.format : Raw → Format
  | .c _ => .c
  | .ethClass _ => .ethClass
  | .ipProto _ => .ipProto
  | .icmpType _ => .icmpType
  | .udpCsum _ => .udpCsum

/-- Why a code word is no row of the table. -/
inductive Reject where
  /-- An illegal command word (30_encoding R102). -/
  | illegalCommand
  /-- An EtherType that is not handled (30_encoding R106, R118). -/
  | etherType
  /-- An IP protocol that is not handled (30_encoding R113, R118). -/
  | ipProtocol
  /-- An ICMP type that is not handled (30_encoding R114, R118). -/
  | icmpType
  deriving DecidableEq, Repr

/-- What the decoder answers. -/
inductive Decoded where
  | instr (i : Instr)
  | reject (r : Reject)
  deriving DecidableEq, Repr

/-- The command words (30_encoding R101, R102). -/
def decodeCommand (w : Word) : Decoded :=
  if w = 0x00000001 then .instr .proc
  else if w = 0x00000002 then .instr .csum
  else if w = 0x00000003 then .instr .csum2
  else .reject .illegalCommand

/-- The EtherType rows (30_encoding R106). -/
def decodeEtherType (w : Half) : Decoded :=
  if w = 0x0806 then .instr .arpReq
  else if w = 0x0800 then .instr .ipv4Unicast
  else .reject .etherType

/-- The IP protocol rows (30_encoding R113). -/
def decodeIpProto (b : Byte) : Decoded :=
  if b = 0x01 then .instr .icmp
  else if b = 0x11 then .instr .udp
  else .reject .ipProtocol

/-- The ICMP type row (30_encoding R114). -/
def decodeIcmpType (b : Byte) : Decoded :=
  if b = 0x08 then .instr .icmpEchoReq else .reject .icmpType

/-- The UDP checksum field rows (30_encoding R115): every value belongs to one of the three. -/
def decodeUdpCsum (s : Half) : Decoded :=
  if s = 0x0000 then .instr .udpCsumNone
  else if s = 0xFFFF then .instr .udpCsumFfff
  else .instr (.udpCsum s)

/-- The decoder, total on every code word of every encoding. -/
def decode : Raw → Decoded
  | .c w => decodeCommand w
  | .ethClass w => decodeEtherType w
  | .ipProto b => decodeIpProto b
  | .icmpType b => decodeIcmpType b
  | .udpCsum s => decodeUdpCsum s

/-- The encoder: an instruction's code word, from the "match" column of the table. -/
def encode : Instr → Raw
  | .proc => .c 0x00000001
  | .csum => .c 0x00000002
  | .csum2 => .c 0x00000003
  | .arpReq => .ethClass 0x0806
  | .ipv4Unicast => .ethClass 0x0800
  | .icmp => .ipProto 0x01
  | .icmpEchoReq => .icmpType 0x08
  | .udp => .ipProto 0x11
  | .udpCsumNone => .udpCsum 0x0000
  | .udpCsumFfff => .udpCsum 0xFFFF
  | .udpCsum s => .udpCsum s

/-- The instruction of an answer that has one. -/
def Decoded.instr? : Decoded → Option Instr
  | .instr i => some i
  | .reject _ => none

/-- The first of the listed code words that decodes. -/
def firstDecoded : List Raw → Option (Raw × Instr)
  | [] => none
  | r :: rs =>
    match (decode r).instr? with
    | some i => some (r, i)
    | none => firstDecoded rs

/-- The code words that `nbits` bits of value `w` can be, in the table's order (log 9): two encodings
are 16 bits wide and two are 8 bits wide, and on the machine the place a word is read from says
which it is. -/
def rawCandidates (nbits w : Nat) : List Raw :=
  if nbits = 32 then [.c (BitVec.ofNat 32 w)]
  else if nbits = 16 then [.ethClass (BitVec.ofNat 16 w), .udpCsum (BitVec.ofNat 16 w)]
  else if nbits = 8 then [.ipProto (BitVec.ofNat 8 w), .icmpType (BitVec.ofNat 8 w)]
  else []

/-- The code word of `nbits` bits of value `w` and its instruction; none where `w` does not fit the
width or no encoding of that width has the word. -/
def decodeTableRaw (nbits w : Nat) : Option (Raw × Instr) :=
  if w < 2 ^ nbits then firstDecoded (rawCandidates nbits w) else none

/-- The instruction the decoder reads from the table's word `w` of `nbits` bits (log 9). -/
def decodeTableWord (nbits w : Nat) : Option Instr :=
  match decodeTableRaw nbits w with
  | some (_, i) => some i
  | none => none

end Sys2Proof
end

