-- ==== Sys2Proof/Config.lean ====
section
/-! DEFINITION. What an implementation fixes (00_scope R8) and the values the spec leaves free
(93_implementation_defined U2). -/

namespace Sys2Proof.Machine

/-- The two buffers (20_memory R70), and the value of a SEL field (10_state R44: 0 = RX, 1 = TX). -/
inductive Buf where
  | rx
  | tx
  deriving DecidableEq, Repr, Inhabited

/-- A checksum region as a pair of CS_* registers gives it (10_state R44-R47, 30_encoding R103):
buffer select SEL, byte offset OFF, count N of whole 16-bit words. -/
structure Region where
  sel : Buf
  off : Half
  n   : Half
  deriving DecidableEq, Repr, Inhabited

/-- PEND_OP and the operand latches (10_state R56), the engine's own copy of what a command reads. -/
structure Latches where
  op       : BitVec 4
  frameLen : Half
  devIp    : Word
  a        : Region
  b        : Region
  odd      : Bool
  deriving DecidableEq, Repr, Inhabited

end Sys2Proof.Machine

namespace Sys2Proof

open Machine

/-- A MAC address as its six bytes in wire order, `m0` first (10_state R43). -/
structure Mac where
  m0 : Byte
  m1 : Byte
  m2 : Byte
  m3 : Byte
  m4 : Byte
  m5 : Byte
  deriving DecidableEq, Repr

/-- The six bytes of a MAC address in ascending frame offset. -/
def Mac.bytes (m : Mac) : List Byte := [m.m0, m.m1, m.m2, m.m3, m.m4, m.m5]

/-- HOST_ENDIAN: the order in which a multi-byte host access to a window is split (20_memory R77). -/
inductive Endian where
  | little
  | big
  deriving DecidableEq, Repr

/-- The parameters a model takes as arguments (00_scope R8); they are no state (10_state R32). -/
structure Params where
  rxBufBytes : Nat
  txBufBytes : Nat
  deviceMac  : Mac
  frameBase  : Nat
  regBase    : Nat
  rxWinBase  : Nat
  txWinBase  : Nat
  hostEndian : Endian
  deriving DecidableEq, Repr

/-- The constraints of 00_scope R8 on the parameters. -/
def Params.wf (p : Params) : Bool :=
  decide (42 ≤ p.rxBufBytes) && decide (p.rxBufBytes ≤ 65535)
    && decide (20 ≤ p.txBufBytes) && decide (p.txBufBytes ≤ 65535)
    && decide (p.deviceMac.bytes ≠ List.replicate 6 0xFF) && decide (p.frameBase = 2)

/-- DESIGN CHOICE, unsafe (log 1): the parameters of State.reset. Sizes and MAC are the example
parameters of 95_test_vectors.md; the bases and the byte order are invented, and the three windows
do not overlap. Nothing but State.reset names this value. -/
def Params.reference : Params where
  rxBufBytes := 1536
  txBufBytes := 64
  deviceMac  := ⟨0x02, 0x11, 0x22, 0x33, 0x44, 0x55⟩
  frameBase  := 2
  regBase    := 0x10000000
  rxWinBase  := 0x10010000
  txWinBase  := 0x10020000
  hostEndian := .little

/-- Free value (log 2): what ACC holds between checksum computations (10_state R54, U2), one value
for each value of the state's counter. -/
opaque Config.freeAcc : Nat → Half

/-- Free value (log 3): what PEND_OP and the operand latches hold between commands (10_state R56, U2). -/
opaque Config.freeLatches : Nat → Latches

end Sys2Proof
end

