-- ==== Sys2Proof/Machine/State.lean ====
section
/-! DEFINITION. The state of the packet core with its environment, as plain data, the reasons a step
stops, and the state after reset. -/

namespace Sys2Proof.Machine

/-- PHASE (10_state R31). The format inside BUSY is the model's own (log 6): which encoding of
opcode_table.json the engine decodes next. -/
inductive Phase where
  | idle
  | busy (at' : Format)
  deriving DecidableEq, Repr

/-- The outcome codes (30_encoding R119); no other code is ever written. -/
inductive OutcomeCode where
  | none
  | csumOk
  | errCmd
  | errRange
  | dropFrameLen
  | dropEthertype
  | dropNotOurs
  | dropClass
  | arpReplyTx
  | dropArpLen
  | dropArpHtype
  | dropArpPtype
  | dropArpOper
  | dropArpNoIp
  | dropArpTarget
  | dropIpLen
  | dropIpFrag
  | dropIpIhl
  | dropIpCsum
  | dropIpProto
  | icmpReplyTx
  | dropIcmpLen
  | dropIcmpType
  | dropIcmpCsum
  | udpHandoff
  | dropUdpLen
  | dropUdpCsum
  deriving DecidableEq, Repr

/-- The stored fields of STATUS (10_state R37-R40); BUSY is a view of PHASE (R36). -/
structure Status where
  done    : Bool
  errBusy : Bool
  outcome : OutcomeCode
  lastOp  : BitVec 4
  deriving DecidableEq, Repr

/-- The stored fields of the register block (10_state R41-R51); reserved fields have no storage (R52). -/
structure Regs where
  frameLen : Half
  devIp    : Word
  csA      : Region
  csB      : Region
  csOdd    : Bool
  csResult : Half
  txLen    : Half
  udpOff   : Half
  udpLen   : Half
  deriving DecidableEq, Repr

/-- The names of the register block (10_state R33). -/
inductive Reg where
  | cmd
  | status
  | frameLen
  | devIp
  | devMacHi
  | devMacLo
  | csAOff
  | csAWords
  | csBOff
  | csBWords
  | csOdd
  | csResult
  | txInfo
  | udpInfo
  | reserved38
  | reserved3C
  deriving DecidableEq, Repr

/-- The bytes of a buffer that have been written since reset (20_memory R93), addresses strictly
rising. An unlisted byte has no value (log 5). -/
abbrev Memory := List Host.Cell

/-- The canonical form of a buffer. -/
abbrev Memory.wf (m : Memory) : Prop := m.Pairwise (fun x y => x.1 < y.1)

/-- The port events (30_encoding R128, R129). -/
inductive PortEvent where
  | transmit (buf : Buf) (len : Half)
  | udpAccept (off len : Half)
  deriving DecidableEq, Repr

/-- The two output ports: the event each one still holds for its consumer (10_state R60, 70_reset R296),
and every event emitted, in order (70_reset R303). -/
structure Ports where
  txPending  : Option Half
  udpPending : Option (Half × Half)
  events     : List PortEvent
  deriving DecidableEq, Repr

/-- The width of a host access (20_memory R78, R80). -/
inductive Width where
  | b8
  | b16
  | b32
  | b64
  deriving DecidableEq, Repr

/-- One action of the world outside the engine. -/
inductive EnvOp where
  /-- `WR <REG>, <value>` (30_encoding R131). -/
  | wr (r : Reg) (v : Word)
  /-- `RD <REG>`. -/
  | rd (r : Reg)
  /-- `WB RX[<off>], <bytes>` or `WB TX[<off>], <bytes>`. -/
  | wb (b : Buf) (off : Nat) (bytes : List Byte)
  /-- `POLL`. -/
  | poll
  /-- A host write of the given width at a platform address (20_memory R73, R77, R78, R80). -/
  | store (addr : Nat) (w : Width) (v : Word)
  /-- A host read of the given width at a platform address. -/
  | load (addr : Nat) (w : Width)
  /-- The adapter takes the transmitted frame from RX (20_memory R71, 70_reset R296). -/
  | adapterTake
  /-- The UDP consumer takes the datagram that was handed off (70_reset R296). -/
  | udpTake
  /-- The platform asserts reset (70_reset R290). -/
  | reset
  /-- The outside world does nothing while the engine makes one step (70_reset R302, log 7). -/
  | wait
  deriving DecidableEq, Repr

/-- The world outside the engine (log 7, log 11): what it does next, and what it has received. -/
structure Env where
  script    : List EnvOp
  reads     : List (EnvOp × Word)
  sent      : List (List Byte)
  delivered : List (List Byte)
  deriving DecidableEq, Repr

/-- The whole state. `cfg` holds the parameters (log 1); no step writes it. -/
structure State where
  cfg       : Params
  phase     : Phase
  status    : Status
  regs      : Regs
  acc       : Half
  lat       : Latches
  rx        : Memory
  tx        : Memory
  ports     : Ports
  env       : Env
  freeCount : Nat
  deriving DecidableEq, Repr

/-- Why the machine stops with a fault. -/
inductive Fault where
  /-- A byte that nothing has written since reset was read (20_memory R93, 93_implementation_defined U1).
  Raised by every buffer read of a command, of the host and of a consumer. Safe: the hardware goes on
  with an unspecified value. -/
  | unwrittenByte (b : Buf) (off : Nat)
  /-- The engine or a consumer addressed an offset at or beyond its buffer's size, which does not exist
  (20_memory R70, R85). Raised by every buffer access, and only in states that no run reaches. Safe. -/
  | outsideBuffer (b : Buf) (off : Nat)
  deriving DecidableEq, Repr

/-- Why a step is refused. Every one but the first is an act of the host that the host contract forbids
and that the spec tells a model to refuse; all are safe. -/
inductive Refusal where
  /-- An instruction with no meaning yet. Raised by exec's arms only; no arm raises it now. Safe. -/
  | notModelled (mnemonic : String)
  /-- A host or consumer access to RX or TX while BUSY (70_reset R295, U4). Raised by `wb`, `store`, `load`,
  `adapterTake`, `udpTake`. Safe. -/
  | bufferAccessWhileBusy (b : Buf)
  /-- A host write of FRAME_LEN, DEV_IP or any CS_* register while BUSY (70_reset R295, 10_state R53, U4).
  Raised by `wr`, `store`. Safe. -/
  | registerWriteWhileBusy (r : Reg)
  /-- A register access that is not 32 bits wide at a multiple of 4 (20_memory R78, U5). Raised by `store`,
  `load`. Safe. -/
  | registerAccessShape (addr : Nat)
  /-- A window access wider than 32 bits (20_memory R80). Raised by `store`, `load`. Safe. -/
  | windowAccessWidth (addr : Nat)
  /-- A host access that reaches outside a buffer (20_memory R80, U6). Raised by `wb`, `store`, `load`. Safe. -/
  | windowAccessOutside (b : Buf) (off : Nat)
  /-- A platform address in no window of the core (20_memory R83, log 13). Raised by `store`, `load`. Safe. -/
  | unmappedHostAddress (addr : Nat)
  /-- A host write to RX before the consumer has taken the frame (70_reset R296, U7). Raised by `wb`,
  `store`. Safe. -/
  | rxNotConsumed
  deriving DecidableEq, Repr

/-- What a step answers. -/
abbrev Result := Host.Outcome State Fault Refusal

/-- A region of zeros: RX, offset 0, no word. -/
def Region.zero : Region := ⟨.rx, 0x0000, 0x0000⟩

/-- The latches at reset. DESIGN CHOICE, unsafe (log 3): the spec leaves them unspecified. -/
def Latches.reset : Latches := ⟨0x0, 0x0000, 0x00000000, Region.zero, Region.zero, false⟩

/-- STATUS after reset (10_state R60). -/
def Status.reset : Status := ⟨false, false, .none, 0x0⟩

/-- The register block after reset (10_state R60). -/
def Regs.reset : Regs :=
  ⟨0x0000, 0x00000000, Region.zero, Region.zero, false, 0x0000, 0x0000, 0x0000, 0x0000⟩

/-- The state after reset of a core with the parameters `p` (10_state R60, 70_reset R290). ACC is
DESIGN CHOICE 0, unsafe (log 2): the spec leaves it unspecified. -/
def State.resetWith (p : Params) : State where
  cfg       := p
  phase     := .idle
  status    := Status.reset
  regs      := Regs.reset
  acc       := 0x0000
  lat       := Latches.reset
  rx        := []
  tx        := []
  ports     := ⟨none, none, []⟩
  env       := ⟨[], [], [], []⟩
  freeCount := 0

/-- The machine right after reset, with the parameters of log 1. -/
def State.reset : State := State.resetWith Params.reference

end Sys2Proof.Machine
end

