-- ==== Sys2Proof/Machine/Flags.lean ====
section
/-! DEFINITION. STATUS: the outcome codes, the word the host reads, and every update of its fields
(10_state R35-R40, R55: the core has no other flag). -/

namespace Sys2Proof.Machine

/-- STATUS.OUTCOME[15:8] of an outcome (30_encoding R119). -/
def OutcomeCode.code : OutcomeCode → Byte
  | .none => 0x00
  | .csumOk => 0x01
  | .errCmd => 0x02
  | .errRange => 0x03
  | .dropFrameLen => 0x10
  | .dropEthertype => 0x11
  | .dropNotOurs => 0x12
  | .dropClass => 0x13
  | .arpReplyTx => 0x20
  | .dropArpLen => 0x21
  | .dropArpHtype => 0x22
  | .dropArpPtype => 0x23
  | .dropArpOper => 0x24
  | .dropArpNoIp => 0x25
  | .dropArpTarget => 0x26
  | .dropIpLen => 0x30
  | .dropIpFrag => 0x31
  | .dropIpIhl => 0x32
  | .dropIpCsum => 0x33
  | .dropIpProto => 0x34
  | .icmpReplyTx => 0x40
  | .dropIcmpLen => 0x41
  | .dropIcmpType => 0x42
  | .dropIcmpCsum => 0x43
  | .udpHandoff => 0x50
  | .dropUdpLen => 0x51
  | .dropUdpCsum => 0x52

/-- The classes of 30_encoding R120 and 60_exceptions R271; NONE is in no class. -/
inductive OutcomeClass where
  | noCommand
  | csumSuccess
  | commandError
  | drop
  | reply
  | handoff
  deriving DecidableEq, Repr

/-- The class of each outcome code (30_encoding R120). -/
def OutcomeCode.classOf : OutcomeCode → OutcomeClass
  | .none => .noCommand
  | .csumOk => .csumSuccess
  | .errCmd => .commandError
  | .errRange => .commandError
  | .arpReplyTx => .reply
  | .icmpReplyTx => .reply
  | .udpHandoff => .handoff
  | .dropFrameLen => .drop
  | .dropEthertype => .drop
  | .dropNotOurs => .drop
  | .dropClass => .drop
  | .dropArpLen => .drop
  | .dropArpHtype => .drop
  | .dropArpPtype => .drop
  | .dropArpOper => .drop
  | .dropArpNoIp => .drop
  | .dropArpTarget => .drop
  | .dropIpLen => .drop
  | .dropIpFrag => .drop
  | .dropIpIhl => .drop
  | .dropIpCsum => .drop
  | .dropIpProto => .drop
  | .dropIcmpLen => .drop
  | .dropIcmpType => .drop
  | .dropIcmpCsum => .drop
  | .dropUdpLen => .drop
  | .dropUdpCsum => .drop

/-- A truth value as one bit. -/
def bit (b : Bool) : BitVec 1 := if b then 1 else 0

/-- PHASE = BUSY. -/
def Phase.isBusy : Phase → Bool
  | .idle => false
  | .busy _ => true

/-- The value of STATUS (10_state R35, R36): LAST_OP[19:16], OUTCOME[15:8], ERR_BUSY[2], DONE[1], BUSY[0]. -/
def statusWord (p : Phase) (st : Status) : Word :=
  0#12 ++ st.lastOp ++ st.outcome.code ++ 0#5 ++ bit st.errBusy ++ bit st.done ++ bit p.isBusy

/-- STATUS at the acceptance of a command whose OP field is `op` (41_dispatch R170, 10_state R37, R40). -/
def Status.accept (st : Status) (op : BitVec 4) : Status := { st with done := false, lastOp := op }

/-- STATUS when a command finishes (41_dispatch R171, 10_state R37, R39). -/
def Status.finish (st : Status) (code : OutcomeCode) : Status :=
  { st with done := true, outcome := code }

/-- A CMD write refused while BUSY (10_state R38, 60_exceptions R274). -/
def Status.setErrBusy (st : Status) : Status := { st with errBusy := true }

/-- A host write of `v` to STATUS (10_state R35): write-1-to-clear of ERR_BUSY and nothing else. -/
def Status.hostWrite (st : Status) (v : Word) : Status :=
  if v.getLsbD 2 then { st with errBusy := false } else st

end Sys2Proof.Machine
end

