-- ==== Sys2Proof/Machine/Ops.lean ====
section
/-! DEFINITION. The shared operations over buffers, registers and ports (00_scope R11, R12; 20_memory;
41_dispatch R170-R172). The core has no trap (60_exceptions R270): what stands in a trap's place is
`State.finish`, the one way a command ends. -/

namespace Sys2Proof.Machine

/-! ### A buffer as a list of cells -/

/-- The byte at an offset, if one has been written since reset. -/
def Memory.get? : Memory → Nat → Option Byte
  | [], _ => none
  | c :: m, a => if c.1 = a then some c.2 else Memory.get? m a

/-- Write one byte, keeping the addresses strictly rising. -/
def Memory.put : Memory → Nat → Byte → Memory
  | [], a, b => [(a, b)]
  | c :: m, a, b =>
    if a < c.1 then (a, b) :: c :: m
    else if a = c.1 then (a, b) :: m
    else c :: Memory.put m a b

/-- Write consecutive bytes in ascending order. -/
def Memory.putBytes (m : Memory) (a : Nat) : List Byte → Memory
  | [] => m
  | b :: bs => Memory.putBytes (m.put a b) (a + 1) bs

/-! ### The two buffers of a state -/

/-- The cells of a buffer. -/
def State.mem (s : State) : Buf → Memory
  | .rx => s.rx
  | .tx => s.tx

/-- The state with a buffer's cells replaced. -/
def State.setMem (s : State) : Buf → Memory → State
  | .rx, m => { s with rx := m }
  | .tx, m => { s with tx := m }

/-- RX_BUF_BYTES or TX_BUF_BYTES (00_scope R8). -/
def State.size (s : State) : Buf → Nat
  | .rx => s.cfg.rxBufBytes
  | .tx => s.cfg.txBufBytes

/-- `buf[o]`, a byte read (00_scope R11, 20_memory R93). -/
def State.readByte (s : State) (b : Buf) (o : Nat) : Except Fault Byte :=
  if o < s.size b then
    match (s.mem b).get? o with
    | some v => .ok v
    | none => .error (.unwrittenByte b o)
  else .error (.outsideBuffer b o)

/-- `MemRead(buf, o, n)` (00_scope R11). -/
def State.memRead (s : State) (b : Buf) (o : Nat) : Nat → Except Fault (List Byte)
  | 0 => .ok []
  | n + 1 => s.readByte b o >>= fun v => s.memRead b (o + 1) n >>= fun vs => .ok (v :: vs)

/-- `buf[o] <- v`, a byte write by the engine. -/
def State.writeByte (s : State) (b : Buf) (o : Nat) (v : Byte) : Except Fault State :=
  if o < s.size b then .ok (s.setMem b ((s.mem b).put o v)) else .error (.outsideBuffer b o)

/-- `MemWrite(buf, o, n, bytes)` (00_scope R11). -/
def State.memWrite (s : State) (b : Buf) (o : Nat) : List Byte → Except Fault State
  | [] => .ok s
  | v :: vs => s.writeByte b o v >>= fun t => t.memWrite b (o + 1) vs

/-- `be16(buf, o)` (00_scope R11): the byte at the lower offset is the more significant (20_memory R74). -/
def State.be16 (s : State) (b : Buf) (o : Nat) : Except Fault Half :=
  s.readByte b o >>= fun hi => s.readByte b (o + 1) >>= fun lo => .ok (hi ++ lo)

/-- `be32(buf, o)` (00_scope R11). -/
def State.be32 (s : State) (b : Buf) (o : Nat) : Except Fault Word :=
  s.be16 b o >>= fun hi => s.be16 b (o + 2) >>= fun lo => .ok (hi ++ lo)

/-- The high and the low byte of a 16-bit value. -/
def halfBytes (v : Half) : List Byte := [v.extractLsb' 8 8, v.extractLsb' 0 8]

/-- `put16(buf, o, v)` (00_scope R11). -/
def State.put16 (s : State) (b : Buf) (o : Nat) (v : Half) : Except Fault State :=
  s.memWrite b o (halfBytes v)

/-! ### The life cycle of a command -/

/-- `finish(code)` (41_dispatch R171). The latches belong to the running command; between commands
they hold any value (10_state R56, U2; log 3). -/
def State.finish (s : State) (code : OutcomeCode) : State :=
  { s with
    phase := .idle
    status := s.status.finish code
    lat := Config.freeLatches s.freeCount
    freeCount := s.freeCount + 1 }

/-- `drop(code)` (41_dispatch R172, 00_scope R14): `finish(code)` with no further effect. -/
def State.drop (s : State) (code : OutcomeCode) : State := s.finish code

/-- The running command goes on to the next encoding it decodes (30_encoding R130, log 6). -/
def State.enter (s : State) (f : Format) : State := { s with phase := .busy f }

/-- The operand latch (10_state R56): OP, and for the command's kind every register it reads. -/
def latchOperands (r : Regs) (l : Latches) (op : BitVec 4) : Latches :=
  if op = 0x1 then { l with op := op, frameLen := r.frameLen, devIp := r.devIp }
  else if op = 0x2 ∨ op = 0x3 then { l with op := op, a := r.csA, b := r.csB, odd := r.csOdd }
  else { l with op := op }

/-- Acceptance of the command word `w` in IDLE (41_dispatch R170), up to the point where the command runs. -/
def State.accept (s : State) (w : Word) : State :=
  { s with
    phase := .busy .c
    status := s.status.accept (w.setWidth 4)
    lat := latchOperands s.regs s.lat (w.setWidth 4) }

/-- A host write of `w` to CMD (41_dispatch R170): refused into ERR_BUSY while BUSY (60_exceptions R274);
an illegal word finishes at once with ERR_CMD (R272, 30_encoding R102); a legal one starts to run. -/
def State.cmdWrite (s : State) (w : Word) : State :=
  if s.phase.isBusy then { s with status := s.status.setErrBusy }
  else
    match decode (.c w) with
    | .instr _ => s.accept w
    | .reject _ => (s.accept w).finish .errCmd

/-! ### Registers and ports the engine writes -/

/-- CS_RESULT <- zext_32(r) (10_state R49). -/
def State.setResult (s : State) (r : Half) : State := { s with regs := { s.regs with csResult := r } }

/-- `reg[TX_INFO] <- len ; emit transmit(RX, len)` (30_encoding R128, 10_state R50). -/
def State.emitTransmit (s : State) (len : Half) : State :=
  { s with
    regs := { s.regs with txLen := len }
    ports := { s.ports with
      txPending := some len, events := s.ports.events ++ [.transmit .rx len] } }

/-- `reg[UDP_INFO] <- {len, off} ; emit udp_accept(off, len)` (30_encoding R129, 10_state R51). -/
def State.emitUdpAccept (s : State) (off len : Half) : State :=
  { s with
    regs := { s.regs with udpOff := off, udpLen := len }
    ports := { s.ports with
      udpPending := some (off, len), events := s.ports.events ++ [.udpAccept off len] } }

/-! ### From a buffer operation's answer to a step's -/

/-- A meaning's answer: the next state, or the fault of a buffer access. -/
def settle : Except Fault State → Result
  | .ok s => .next s
  | .error f => .fault f

end Sys2Proof.Machine
end

