-- ==== Sys2Proof/Machine/Operands.lean ====
section
/-! DEFINITION. Where the operands of an instruction come from: the latched checksum regions
(30_encoding R103) and the fields of the frame in RX (R105-R117). The intermediate values of a frame
are no state (10_state R32), so each stage reads them from RX again (log 8). -/

namespace Sys2Proof.Machine

/-! ### Checksum regions -/

/-- The bytes a region covers beyond its offset: 2*N, plus the odd byte. -/
def Region.byteLen (r : Region) (odd : Bool) : Nat := 2 * r.n.toNat + odd.toNat

/-- The exact end offset of a region (40_checksum R149): no wrap-around. -/
def Region.endOff (r : Region) (odd : Bool) : Nat := r.off.toNat + r.byteLen odd

/-- A region lies inside its buffer (40_checksum R149). -/
def State.inRange (s : State) (r : Region) (odd : Bool) : Bool := decide (r.endOff odd ≤ s.size r.sel)

/-! ### Constants of the wire formats -/

/-- The broadcast MAC address (30_encoding R111, log 17). -/
def broadcastMac : List Byte := List.replicate 6 0xFF

/-- EtherType IPv4 (30_encoding R106). -/
def etherIpv4 : Half := 0x0800

/-- EtherType ARP (30_encoding R106). -/
def etherArp : Half := 0x0806

/-- ARP hardware-address-space Ethernet (30_encoding R108, log 17). -/
def arpEthernet : Half := 0x0001

/-- ARP protocol-address-space IPv4 (30_encoding R108, log 17). -/
def arpIpv4 : Half := 0x0800

/-- ARP opcodes (30_encoding R108). -/
def arpRequest : Half := 0x0001
def arpReply : Half := 0x0002

/-- The fragment mask of flags+fragment-offset (30_encoding R112, 90_conflicts C2). -/
def fragMask : Half := 0x3FFF

/-- IP protocol numbers (30_encoding R113, log 17). -/
def protoIcmp : Byte := 1
def protoUdp : Byte := 17

/-- ICMP types (30_encoding R114). -/
def icmpEchoRequest : Byte := 8
def icmpEchoReply : Byte := 0

/-! ### Fields of the frame -/

/-- The EtherType (30_encoding R105). -/
def State.etherType (s : State) : Except Fault Half := s.be16 .rx 12

/-- The destination MAC (30_encoding R105). -/
def State.dstMac (s : State) : Except Fault (List Byte) := s.memRead .rx 0 6

/-- `ihl = RX[14][3:0]` (30_encoding R110): the IPv4 header length in 32-bit words. The version nibble is
not decoded. -/
def State.ihl (s : State) : Except Fault Nat :=
  s.readByte .rx 14 >>= fun v => .ok (v.extractLsb' 0 4).toNat

/-- `tl = be16(RX, 16)` (30_encoding R110): the IPv4 total length in bytes. -/
def State.totalLen (s : State) : Except Fault Nat := s.be16 .rx 16 >>= fun v => .ok v.toNat

/-- `P = 14 + 4*ihl` (30_encoding R110): the offset of the IPv4 payload. -/
def payloadOff (ihl : Nat) : Nat := 14 + 4 * ihl

/-- `L = be16(RX, P+4)` (30_encoding R115): the UDP length. -/
def State.udpLength (s : State) (p : Nat) : Except Fault Half := s.be16 .rx (p + 4)

/-- The low bit of a byte length: the region ends in an odd byte (30_encoding R114, R115). -/
def isOdd (n : Nat) : Bool := decide (n % 2 = 1)

/-! ### Reading the next code word -/

/-- The code word the running command decodes next (30_encoding R130): the latched OP of a command
(10_state R56), or the field of the frame that opcode_table.json names for the encoding. -/
def State.fetch (s : State) : Format → Except Fault Raw
  | .c => .ok (.c (s.lat.op.setWidth 32))
  | .ethClass => s.etherType >>= fun w => .ok (.ethClass w)
  | .ipProto => s.readByte .rx 23 >>= fun b => .ok (.ipProto b)
  | .icmpType => s.ihl >>= fun ihl => s.readByte .rx (payloadOff ihl) >>= fun b => .ok (.icmpType b)
  | .udpCsum => s.ihl >>= fun ihl => s.be16 .rx (payloadOff ihl + 6) >>= fun w => .ok (.udpCsum w)

/-- How a command ends when its next code word is no row of the table (30_encoding R102, R118). -/
def rejectOutcome : Reject → OutcomeCode
  | .illegalCommand => .errCmd
  | .etherType => .dropEthertype
  | .ipProtocol => .dropIpProto
  | .icmpType => .dropIcmpType

end Sys2Proof.Machine
end

