-- ==== Sys2Proof/Machine/Arp.lean ====
section
/-! DEFINITION. The ARP responder (42_arp R190-R200). -/

namespace Sys2Proof.Machine

/-- The reply built in place in RX, from values read before any write (42_arp R197). -/
def State.arpBuildReply (s : State) : Except Fault State :=
  s.memRead .rx 6 6 >>= fun esrc =>
  s.memRead .rx 22 6 >>= fun sha =>
  s.memRead .rx 28 4 >>= fun spa =>
  s.memRead .rx 38 4 >>= fun tpa =>
  s.memWrite .rx 0 esrc >>= fun s =>
  s.memWrite .rx 6 s.cfg.deviceMac.bytes >>= fun s =>
  s.put16 .rx 20 arpReply >>= fun s =>
  s.memWrite .rx 32 sha >>= fun s =>
  s.memWrite .rx 38 spa >>= fun s =>
  s.memWrite .rx 28 tpa >>= fun s =>
  s.memWrite .rx 22 s.cfg.deviceMac.bytes

/-- ARP_REQ (42_arp R190): the checks R191-R196 in order, the reply R197, its transmission R198. -/
def execArpReq (s : State) : Result := settle <|
  if s.lat.frameLen.toNat < 42 then .ok (s.drop .dropArpLen) else
  s.be16 .rx 14 >>= fun htype =>
  if htype ≠ arpEthernet then .ok (s.drop .dropArpHtype) else
  s.be16 .rx 16 >>= fun ptype =>
  if ptype ≠ arpIpv4 then .ok (s.drop .dropArpPtype) else
  s.be16 .rx 20 >>= fun oper =>
  if oper ≠ arpRequest then .ok (s.drop .dropArpOper) else
  if s.lat.devIp = 0x00000000 then .ok (s.drop .dropArpNoIp) else
  s.be32 .rx 38 >>= fun tpa =>
  if tpa ≠ s.lat.devIp then .ok (s.drop .dropArpTarget) else
  s.arpBuildReply >>= fun t =>
  .ok ((t.emitTransmit 42).finish .arpReplyTx)

end Sys2Proof.Machine
end

