-- ==== Sys2Proof/Machine/Checksum.lean ====
section
/-! DEFINITION. The checksum accumulator (40_checksum R140-R146) and the two primitives every responder
uses, verify and generate (R150, R151). -/

namespace Sys2Proof.Machine

/-- One's-complement addition with end-around carry (40_checksum R141). -/
def ocadd (a b : Half) : Half :=
  let t := a.toNat + b.toNat
  BitVec.ofNat 16 (if 0xFFFF < t then t - 0xFFFF else t)

/-- The folded sum of a word list (40_checksum R143). -/
def ocsum (ws : List Half) : Half := ws.foldl ocadd 0x0000

/-- The Internet checksum of a word list (40_checksum R144; the complement is general knowledge the
spec marks, log 17). -/
def inet (ws : List Half) : Half := 0xFFFF - ocsum ws

/-- The whole words of a region, big-endian (40_checksum R142, 20_memory R75). -/
def State.wholeWords (s : State) (b : Buf) (o : Nat) : Nat → Except Fault (List Half)
  | 0 => .ok []
  | n + 1 => s.be16 b o >>= fun w => s.wholeWords b (o + 2) n >>= fun ws => .ok (w :: ws)

/-- The trailing odd byte as the high byte of a word (40_checksum R142): the padding is never read. -/
def State.oddWord (s : State) (b : Buf) (o : Nat) (odd : Bool) : Except Fault (List Half) :=
  if odd then s.readByte b o >>= fun v => .ok [v ++ 0x00#8] else .ok []

/-- `words(buf, o, n, odd)` (40_checksum R142). -/
def State.words (s : State) (b : Buf) (o n : Nat) (odd : Bool) : Except Fault (List Half) :=
  s.wholeWords b o n >>= fun ws => s.oddWord b (o + 2 * n) odd >>= fun w => .ok (ws ++ w)

/-- `words_z(buf, o, n, odd, f)` (40_checksum R145): the words of the buffer with the field at `f` read
as zero. The buffer with the zeroed field is a value of this expression only; the state keeps its own. -/
def State.wordsZ (s : State) (b : Buf) (o n : Nat) (odd : Bool) (f : Nat) : Except Fault (List Half) :=
  s.put16 b f 0x0000 >>= fun z => z.words b o n odd

/-! ### ACC -/

/-- `ACC <- 0` (40_checksum R143, 10_state R54). -/
def State.accClear (s : State) : State := { s with acc := 0x0000 }

/-- `ACC <- ocadd(ACC, w)` (40_checksum R143). -/
def State.accAdd (s : State) (w : Half) : State := { s with acc := ocadd s.acc w }

/-- The accumulator's run over a word list (40_checksum R143); ACC then holds the folded sum. -/
def State.accSum (s : State) (ws : List Half) : State := ws.foldl State.accAdd s.accClear

/-- The end of a computation: between computations ACC holds any value (10_state R54, U2; log 2). -/
def State.accRelease (s : State) : State :=
  { s with acc := Config.freeAcc s.freeCount, freeCount := s.freeCount + 1 }

/-- One checksum computation: its result (40_checksum R144), and the state after it. -/
def State.checksum (s : State) (ws : List Half) : Half × State :=
  let t := s.accSum ws
  (0xFFFF - t.acc, t.accRelease)

/-! ### Verify and generate -/

/-- `verify(buf, o, n, odd, f)` (40_checksum R150): whether it passes, and the state after the
computation, which differs in ACC only. -/
def State.verify (s : State) (b : Buf) (o n : Nat) (odd : Bool) (f : Nat) : Except Fault (Bool × State) :=
  s.be16 b f >>= fun saved =>
  s.wordsZ b o n odd f >>= fun ws =>
  .ok (decide ((s.checksum ws).1 = saved), (s.checksum ws).2)

/-- `generate(buf, o, n, odd, f)` (40_checksum R151). -/
def State.generate (s : State) (b : Buf) (o n : Nat) (odd : Bool) (f : Nat) : Except Fault State :=
  s.put16 b f 0x0000 >>= fun z =>
  z.words b o n odd >>= fun ws =>
  (z.checksum ws).2.put16 b f (z.checksum ws).1

end Sys2Proof.Machine
end

