-- ==== Sys2Proof/Machine/Csum.lean ====
section
/-! DEFINITION. The host commands CSUM and CSUM2 (40_checksum R147-R149). -/

namespace Sys2Proof.Machine

/-- The words of a region; the odd byte where `odd` says so (40_checksum R142, 30_encoding R103). -/
def State.regionWords (s : State) (r : Region) (odd : Bool) : Except Fault (List Half) :=
  s.words r.sel r.off.toNat r.n.toNat odd

/-- The end of a checksum command that reads its bytes: CS_RESULT and CSUM_OK (40_checksum R147, R148). -/
def State.finishCsum (s : State) (ws : List Half) : State :=
  ((s.checksum ws).2.setResult (s.checksum ws).1).finish .csumOk

/-- CSUM (40_checksum R147). -/
def execCsum (s : State) : Result := settle <|
  if s.inRange s.lat.a s.lat.odd = false then .ok (s.finish .errRange) else
  s.regionWords s.lat.a s.lat.odd >>= fun ws =>
  .ok (s.finishCsum ws)

/-- CSUM2 (40_checksum R148): region A is whole words, the odd flag belongs to region B. -/
def execCsum2 (s : State) : Result := settle <|
  if s.inRange s.lat.a false = false then .ok (s.finish .errRange) else
  if s.inRange s.lat.b s.lat.odd = false then .ok (s.finish .errRange) else
  s.regionWords s.lat.a false >>= fun wa =>
  s.regionWords s.lat.b s.lat.odd >>= fun wb =>
  .ok (s.finishCsum (wa ++ wb))

end Sys2Proof.Machine
end

