-- ==== Sys2Proof/Machine/Icmp.lean ====
section
/-! DEFINITION. The ICMP echo responder (44_icmp R230-R241). -/

namespace Sys2Proof.Machine

/-- ICMP (44_icmp R230, its first half): the length check (R231) and the type check (R232). An echo
request is the next row, ICMP_ECHO_REQ (log 6). -/
def execIcmp (s : State) : Result := settle <|
  s.ihl >>= fun ihl =>
  s.totalLen >>= fun tl =>
  if tl < 4 * ihl + 8 ∨ s.lat.frameLen.toNat < 14 + tl then .ok (s.drop .dropIcmpLen) else
  s.readByte .rx (payloadOff ihl) >>= fun ty =>
  if ty ≠ icmpEchoRequest then .ok (s.drop .dropIcmpType) else
  .ok (s.enter .icmpType)

/-- The MAC swap of an echo reply (44_icmp R235). -/
def State.swapMacs (s : State) : Except Fault State :=
  s.memRead .rx 0 6 >>= fun m =>
  s.memRead .rx 6 6 >>= fun src =>
  s.memWrite .rx 0 src >>= fun s =>
  s.memWrite .rx 6 m

/-- The IP address swap of an echo reply (44_icmp R236). -/
def State.swapIps (s : State) : Except Fault State :=
  s.memRead .rx 26 4 >>= fun a =>
  s.memRead .rx 30 4 >>= fun dst =>
  s.memWrite .rx 26 dst >>= fun s =>
  s.memWrite .rx 30 a

/-- The reply built in place over the request (44_icmp R234-R238): type, MACs, addresses, the IPv4
header checksum, then the checksum of the ICMP message of `ilen` bytes. -/
def State.icmpBuildReply (s : State) (ihl ilen : Nat) : Except Fault State :=
  s.writeByte .rx (payloadOff ihl) icmpEchoReply >>= fun s =>
  s.swapMacs >>= fun s =>
  s.swapIps >>= fun s =>
  s.generate .rx 14 (2 * ihl) false 24 >>= fun s =>
  s.generate .rx (payloadOff ihl) (ilen / 2) (isOdd ilen) (payloadOff ihl + 2)

/-- ICMP_ECHO_REQ (44_icmp R230, from R233 on): the checksum check, the reply, and its transmission
with the latched frame length (R239). `tl - 4*ihl` is exact after R231's check. -/
def execIcmpEchoReq (s : State) : Result := settle <|
  s.ihl >>= fun ihl =>
  s.totalLen >>= fun tl =>
  s.verify .rx (payloadOff ihl) ((tl - 4 * ihl) / 2) (isOdd (tl - 4 * ihl)) (payloadOff ihl + 2) >>= fun v =>
  if v.1 = false then .ok (v.2.drop .dropIcmpCsum) else
  v.2.icmpBuildReply ihl (tl - 4 * ihl) >>= fun t =>
  .ok ((t.emitTransmit t.lat.frameLen).finish .icmpReplyTx)

end Sys2Proof.Machine
end

