-- ==== Sys2Proof/Machine/Ipv4.lean ====
section
/-! DEFINITION. The IPv4 validator (43_ipv4 R210-R217). -/

namespace Sys2Proof.Machine

/-- IPV4_UNICAST (43_ipv4 R210): length (R211), fragment bits (R212), header length (R213), header
checksum (R214), protocol (R215). A protocol that is handled is the next row, ICMP or UDP (log 6). -/
def execIpv4Unicast (s : State) : Result := settle <|
  if s.lat.frameLen.toNat < 34 then .ok (s.drop .dropIpLen) else
  s.be16 .rx 20 >>= fun ff =>
  if ff &&& fragMask ≠ 0x0000 then .ok (s.drop .dropIpFrag) else
  s.ihl >>= fun ihl =>
  if ihl < 5 ∨ s.lat.frameLen.toNat < payloadOff ihl then .ok (s.drop .dropIpIhl) else
  s.verify .rx 14 (2 * ihl) false 24 >>= fun v =>
  if v.1 = false then .ok (v.2.drop .dropIpCsum) else
  v.2.readByte .rx 23 >>= fun proto =>
  if proto = protoIcmp ∨ proto = protoUdp then .ok (v.2.enter .ipProto)
  else .ok (v.2.drop .dropIpProto)

end Sys2Proof.Machine
end

