-- ==== Sys2Proof/Machine/Proc.lean ====
section
/-! DEFINITION. PROC, the frame dispatcher (41_dispatch R173-R177). -/

namespace Sys2Proof.Machine

/-- PROC (41_dispatch R173): the length bound (R174), the EtherType filter (R175) and the MAC class
(R176). A frame that is ours goes on to its EtherType row, ARP_REQ or IPV4_UNICAST (log 6). -/
def execProc (s : State) : Result := settle <|
  if s.lat.frameLen.toNat < 14 ∨ s.cfg.rxBufBytes < s.lat.frameLen.toNat then
    .ok (s.drop .dropFrameLen) else
  s.etherType >>= fun et =>
  if et ≠ etherIpv4 ∧ et ≠ etherArp then .ok (s.drop .dropEthertype) else
  s.dstMac >>= fun dst =>
  if dst = s.cfg.deviceMac.bytes then
    if et = etherIpv4 then .ok (s.enter .ethClass) else .ok (s.drop .dropClass)
  else if dst = broadcastMac then
    if et = etherArp then .ok (s.enter .ethClass) else .ok (s.drop .dropClass)
  else .ok (s.drop .dropNotOurs)

end Sys2Proof.Machine
end

