-- ==== Sys2Proof/Machine/Udp.lean ====
section
/-! DEFINITION. The UDP checksum validator (45_udp R250-R257). -/

namespace Sys2Proof.Machine

/-- The pseudo-header and the UDP header copy in TX bytes 0..19 (45_udp R252, 30_encoding R116). -/
def State.buildPseudoHeader (s : State) (p : Nat) (len : Half) : Except Fault State :=
  s.memRead .rx 26 4 >>= fun src =>
  s.memWrite .tx 0 src >>= fun s =>
  s.memRead .rx 30 4 >>= fun dst =>
  s.memWrite .tx 4 dst >>= fun s =>
  s.writeByte .tx 8 0x00 >>= fun s =>
  s.writeByte .tx 9 protoUdp >>= fun s =>
  s.put16 .tx 10 len >>= fun s =>
  s.memRead .rx p 4 >>= fun ports =>
  s.memWrite .tx 12 ports >>= fun s =>
  s.put16 .tx 16 len >>= fun s =>
  s.put16 .tx 18 0x0000

/-- UDP (45_udp R250, its first half): the length checks (R251) and the pseudo-header (R252). The
checksum field then selects the next row (log 6). -/
def execUdp (s : State) : Result := settle <|
  s.ihl >>= fun ihl =>
  s.totalLen >>= fun tl =>
  if tl < 4 * ihl + 8 ∨ s.lat.frameLen.toNat < 14 + tl then .ok (s.drop .dropUdpLen) else
  s.udpLength (payloadOff ihl) >>= fun len =>
  if len.toNat < 8 ∨ tl - 4 * ihl < len.toNat then .ok (s.drop .dropUdpLen) else
  s.buildPseudoHeader (payloadOff ihl) len >>= fun t =>
  .ok (t.enter .udpCsum)

/-- The hand-off (45_udp R255). -/
def State.handOff (s : State) (p : Nat) (len : Half) : State :=
  (s.emitUdpAccept (BitVec.ofNat 16 p) len).finish .udpHandoff

/-- The words of the two-region checksum (45_udp R254): the pseudo-header in TX, then the payload. -/
def State.udpWords (s : State) (p : Nat) (len : Half) : Except Fault (List Half) :=
  s.words .tx 0 10 false >>= fun wa =>
  s.words .rx (p + 8) ((len.toNat - 8) / 2) (isOdd (len.toNat - 8)) >>= fun wb =>
  .ok (wa ++ wb)

/-- The comparison of the computed checksum with the remapped stored value (45_udp R254), then the
hand-off or the drop. -/
def State.udpCompare (s : State) (expected : Half) : Except Fault State :=
  s.ihl >>= fun ihl =>
  s.udpLength (payloadOff ihl) >>= fun len =>
  s.udpWords (payloadOff ihl) len >>= fun ws =>
  if (s.checksum ws).1 ≠ expected then .ok ((s.checksum ws).2.drop .dropUdpCsum)
  else .ok ((s.checksum ws).2.handOff (payloadOff ihl) len)

/-- UDP_CSUM_NONE (45_udp R253): handed off with no checksum computed. -/
def execUdpCsumNone (s : State) : Result := settle <|
  s.ihl >>= fun ihl =>
  s.udpLength (payloadOff ihl) >>= fun len =>
  .ok (s.handOff (payloadOff ihl) len)

/-- UDP_CSUM_FFFF (45_udp R254): a stored 0xFFFF stands for a computed 0x0000. -/
def execUdpCsumFfff (s : State) : Result := settle (s.udpCompare 0x0000)

/-- UDP_CSUM (45_udp R254): the stored value is compared as it is. -/
def execUdpCsum (stored : Half) (s : State) : Result := settle (s.udpCompare stored)

end Sys2Proof.Machine
end

