-- ==== Sys2Proof/Machine/Dispatch.lean ====
section
/-! DEFINITION. The meaning of each row of opcode_table.json. -/

namespace Sys2Proof.Machine

def exec (i : Instr) (s : State) : Host.Outcome State Fault Refusal :=
  match i with
  | .proc => Sys2Proof.Machine.execProc s
  | .csum => Sys2Proof.Machine.execCsum s
  | .csum2 => Sys2Proof.Machine.execCsum2 s
  | .arpReq => Sys2Proof.Machine.execArpReq s
  | .ipv4Unicast => Sys2Proof.Machine.execIpv4Unicast s
  | .icmp => Sys2Proof.Machine.execIcmp s
  | .icmpEchoReq => Sys2Proof.Machine.execIcmpEchoReq s
  | .udp => Sys2Proof.Machine.execUdp s
  | .udpCsumNone => Sys2Proof.Machine.execUdpCsumNone s
  | .udpCsumFfff => Sys2Proof.Machine.execUdpCsumFfff s
  | .udpCsum stored => Sys2Proof.Machine.execUdpCsum stored s

end Sys2Proof.Machine
end

