-- ==== Sys2Proof/Machine/HostPort.lean ====
section
/-! DEFINITION. The world outside the engine: host register and window accesses, the consumers of the two
ports, reset, and the host script with its pseudo-instructions (10_state R33-R53, 20_memory R77-R82,
30_encoding R131, R132, 70_reset R290-R303). -/

namespace Sys2Proof.Machine

/-! ### The register block -/

/-- The byte offset of a register from REG_BASE (10_state R33). -/
def Reg.offset : Reg → Nat
  | .cmd => 0x00
  | .status => 0x04
  | .frameLen => 0x08
  | .devIp => 0x0C
  | .devMacHi => 0x10
  | .devMacLo => 0x14
  | .csAOff => 0x18
  | .csAWords => 0x1C
  | .csBOff => 0x20
  | .csBWords => 0x24
  | .csOdd => 0x28
  | .csResult => 0x2C
  | .txInfo => 0x30
  | .udpInfo => 0x34
  | .reserved38 => 0x38
  | .reserved3C => 0x3C

/-- Every register, in the order of the map (10_state R33). -/
def Reg.all : List Reg :=
  [.cmd, .status, .frameLen, .devIp, .devMacHi, .devMacLo, .csAOff, .csAWords, .csBOff, .csBWords,
    .csOdd, .csResult, .txInfo, .udpInfo, .reserved38, .reserved3C]

/-- The register at a byte offset from REG_BASE. -/
def Reg.at? (off : Nat) : Option Reg := Reg.all.find? (fun r => r.offset == off)

/-- SEL as one bit: 0 = RX, 1 = TX (10_state R44). -/
def Buf.bit : Buf → BitVec 1
  | .rx => 0
  | .tx => 1

/-- The buffer a SEL bit selects (10_state R44). -/
def Buf.ofBit (b : Bool) : Buf := if b then .tx else .rx

/-- The value of CS_A_OFF or CS_B_OFF (10_state R44, R46). -/
def Region.offWord (r : Region) : Word := 0#15 ++ r.sel.bit ++ r.off

/-- A write of `v` to CS_A_OFF or CS_B_OFF: OFF[15:0], SEL[16] (10_state R44, R46). -/
def Region.writeOff (r : Region) (v : Word) : Region :=
  { r with sel := Buf.ofBit (v.getLsbD 16), off := v.setWidth 16 }

/-- A write of `v` to CS_A_WORDS or CS_B_WORDS: N[15:0] (10_state R45, R47). -/
def Region.writeWords (r : Region) (v : Word) : Region := { r with n := v.setWidth 16 }

/-- A host read of a register (10_state R33-R52): it has no side effect (20_memory R82). -/
def State.readReg (s : State) : Reg → Word
  | .cmd => 0x00000000
  | .status => statusWord s.phase s.status
  | .frameLen => s.regs.frameLen.setWidth 32
  | .devIp => s.regs.devIp
  | .devMacHi => 0#16 ++ s.cfg.deviceMac.m0 ++ s.cfg.deviceMac.m1
  | .devMacLo =>
    s.cfg.deviceMac.m2 ++ s.cfg.deviceMac.m3 ++ s.cfg.deviceMac.m4 ++ s.cfg.deviceMac.m5
  | .csAOff => s.regs.csA.offWord
  | .csAWords => s.regs.csA.n.setWidth 32
  | .csBOff => s.regs.csB.offWord
  | .csBWords => s.regs.csB.n.setWidth 32
  | .csOdd => (bit s.regs.csOdd).setWidth 32
  | .csResult => s.regs.csResult.setWidth 32
  | .txInfo => s.regs.txLen.setWidth 32
  | .udpInfo => s.regs.udpLen ++ s.regs.udpOff
  | .reserved38 => 0x00000000
  | .reserved3C => 0x00000000

/-- What a host write does to the stored operand registers: only the seven of 10_state R53 take it. -/
def Regs.hostWrite (g : Regs) : Reg → Word → Regs
  | .cmd, _ => g
  | .status, _ => g
  | .frameLen, v => { g with frameLen := v.setWidth 16 }
  | .devIp, v => { g with devIp := v }
  | .devMacHi, _ => g
  | .devMacLo, _ => g
  | .csAOff, v => { g with csA := g.csA.writeOff v }
  | .csAWords, v => { g with csA := g.csA.writeWords v }
  | .csBOff, v => { g with csB := g.csB.writeOff v }
  | .csBWords, v => { g with csB := g.csB.writeWords v }
  | .csOdd, v => { g with csOdd := v.getLsbD 0 }
  | .csResult, _ => g
  | .txInfo, _ => g
  | .udpInfo, _ => g
  | .reserved38, _ => g
  | .reserved3C, _ => g

/-- The registers whose write while BUSY is outside the host contract: FRAME_LEN, DEV_IP and every CS_*
register (70_reset R295), the seven of 10_state R53 among them (log 12). -/
def Reg.writeNeedsIdle : Reg → Bool
  | .cmd => false
  | .status => false
  | .frameLen => true
  | .devIp => true
  | .devMacHi => false
  | .devMacLo => false
  | .csAOff => true
  | .csAWords => true
  | .csBOff => true
  | .csBWords => true
  | .csOdd => true
  | .csResult => true
  | .txInfo => false
  | .udpInfo => false
  | .reserved38 => false
  | .reserved3C => false

/-- A host write to a register: CMD starts or is refused (41_dispatch R170), STATUS clears ERR_BUSY
(10_state R35), a write to FRAME_LEN, DEV_IP or a CS_* register while BUSY is refused (70_reset R295), an
operand register takes its fields, and every other register ignores the write (10_state R43, R52; log 12
for the information registers). -/
def State.writeReg (s : State) (r : Reg) (v : Word) : Result :=
  if r = .cmd then .next (s.cmdWrite v)
  else if r = .status then .next { s with status := s.status.hostWrite v }
  else if r.writeNeedsIdle && s.phase.isBusy then .refused (.registerWriteWhileBusy r)
  else .next { s with regs := s.regs.hostWrite r v }

/-! ### The buffer windows -/

/-- A frame in RX that a consumer has still to take (70_reset R296). -/
def State.rxHeld (s : State) : Bool := s.ports.txPending.isSome || s.ports.udpPending.isSome

/-- A host write of bytes to a buffer: refused while BUSY (70_reset R295), outside the buffer
(20_memory R80), or into RX before the consumer has taken the frame (R296). -/
def State.hostWriteBytes (s : State) (b : Buf) (off : Nat) (bs : List Byte) : Result :=
  if s.phase.isBusy then .refused (.bufferAccessWhileBusy b)
  else if s.size b < off + bs.length then .refused (.windowAccessOutside b off)
  else if b = .rx && s.rxHeld then .refused .rxNotConsumed
  else .next (s.setMem b ((s.mem b).putBytes off bs))

/-- The number of bytes of a host access. -/
def Width.bytes : Width → Nat
  | .b8 => 1
  | .b16 => 2
  | .b32 => 4
  | .b64 => 8

/-- The bytes of a word, the least significant first. -/
def wordBytesLe (v : Word) : List Byte :=
  [v.extractLsb' 0 8, v.extractLsb' 8 8, v.extractLsb' 16 8, v.extractLsb' 24 8]

/-- The bytes of a host access in ascending address order (20_memory R77, HOST_ENDIAN). -/
def splitBytes (e : Endian) (w : Width) (v : Word) : List Byte :=
  match e with
  | .little => (wordBytesLe v).take w.bytes
  | .big => ((wordBytesLe v).take w.bytes).reverse

/-- The value of bytes listed with the most significant first. -/
def joinBe (bs : List Byte) : Word := bs.foldl (fun acc b => acc <<< 8 ||| b.setWidth 32) 0

/-- The value of a host access from its bytes in ascending address order (20_memory R77). -/
def joinBytes (e : Endian) (bs : List Byte) : Word :=
  match e with
  | .little => joinBe bs.reverse
  | .big => joinBe bs

/-- The platform address of byte 0 of a buffer's window (20_memory R71, R72). -/
def State.winBase (s : State) : Buf → Nat
  | .rx => s.cfg.rxWinBase + s.cfg.frameBase
  | .tx => s.cfg.txWinBase

/-- What a platform address names. -/
inductive Target where
  | reg (r : Reg)
  | window (b : Buf) (off : Nat)
  deriving DecidableEq, Repr

/-- A window access at offset `off` (20_memory R80). -/
def State.windowTarget (s : State) (b : Buf) (addr off : Nat) (w : Width) : Except Refusal Target :=
  if w = .b64 then .error (.windowAccessWidth addr)
  else if s.size b < off + w.bytes then .error (.windowAccessOutside b off)
  else .ok (.window b off)

/-- A platform address lies in the range of `n` bytes from `base`. -/
def inSpan (addr base n : Nat) : Bool := decide (base ≤ addr) && decide (addr < base + n)

/-- What a host access at a platform address reaches (20_memory R73, R78, R80, R83). Where windows
overlap, the register block comes first, then RX (log 13). -/
def State.resolve (s : State) (addr : Nat) (w : Width) : Except Refusal Target :=
  if inSpan addr s.cfg.regBase 0x40 then
    match Reg.at? (addr - s.cfg.regBase), w with
    | some r, .b32 => .ok (.reg r)
    | some _, .b8 => .error (.registerAccessShape addr)
    | some _, .b16 => .error (.registerAccessShape addr)
    | some _, .b64 => .error (.registerAccessShape addr)
    | none, _ => .error (.registerAccessShape addr)
  else if inSpan addr (s.winBase .rx) (s.size .rx) then
    s.windowTarget .rx addr (addr - s.winBase .rx) w
  else if inSpan addr (s.winBase .tx) (s.size .tx) then
    s.windowTarget .tx addr (addr - s.winBase .tx) w
  else .error (.unmappedHostAddress addr)

/-- A host write at a platform address. -/
def State.hostStore (s : State) (addr : Nat) (w : Width) (v : Word) : Result :=
  match s.resolve addr w with
  | .error r => .refused r
  | .ok (.reg r) => s.writeReg r v
  | .ok (.window b off) => s.hostWriteBytes b off (splitBytes s.cfg.hostEndian w v)

/-! ### Reads -/

/-- Record a value the host read. -/
def State.logRead (s : State) (op : EnvOp) (v : Word) : State :=
  { s with env := { s.env with reads := s.env.reads ++ [(op, v)] } }

/-- A host read at a platform address: register reads are always allowed, buffer reads only while IDLE
(70_reset R295); a byte nothing has written faults (log 5). -/
def State.hostLoad (s : State) (addr : Nat) (w : Width) : Result :=
  match s.resolve addr w with
  | .error r => .refused r
  | .ok (.reg r) => .next (s.logRead (.load addr w) (s.readReg r))
  | .ok (.window b off) =>
    if s.phase.isBusy then .refused (.bufferAccessWhileBusy b)
    else
      match s.memRead b off w.bytes with
      | .error f => .fault f
      | .ok bs => .next (s.logRead (.load addr w) (joinBytes s.cfg.hostEndian bs))

/-! ### The consumers and reset -/

/-- The adapter takes RX bytes 0 .. len-1 of a pending transmit (20_memory R71, 70_reset R296); with no
transmit pending there is nothing to take (log 11). -/
def State.adapterTake (s : State) : Result :=
  match s.ports.txPending with
  | none => .next s
  | some len =>
    if s.phase.isBusy then .refused (.bufferAccessWhileBusy .rx)
    else
      match s.memRead .rx 0 len.toNat with
      | .error f => .fault f
      | .ok bs =>
        .next { s with
          ports := { s.ports with txPending := none }
          env := { s.env with sent := s.env.sent ++ [bs] } }

/-- The UDP consumer takes the datagram at UDP_INFO of a pending hand-off (70_reset R296, log 11). -/
def State.udpTake (s : State) : Result :=
  match s.ports.udpPending with
  | none => .next s
  | some (off, len) =>
    if s.phase.isBusy then .refused (.bufferAccessWhileBusy .rx)
    else
      match s.memRead .rx off.toNat len.toNat with
      | .error f => .fault f
      | .ok bs =>
        .next { s with
          ports := { s.ports with udpPending := none }
          env := { s.env with delivered := s.env.delivered ++ [bs] } }

/-- Reset at any time (70_reset R290): every piece of the core's state takes its reset value and a running
command is abandoned with no outcome and no event. The records of what the outside world has already
received stay, and so does the rest of the script (log 15). -/
def State.hardReset (s : State) : State :=
  { State.resetWith s.cfg with
    env := s.env
    ports := { txPending := none, udpPending := none, events := s.ports.events }
    freeCount := s.freeCount }

/-! ### The script -/

/-- One action of the world outside the engine (30_encoding R131). `poll` here is the read that finds
BUSY = 0; the reads before it are in `State.advance`. -/
def State.act (s : State) : EnvOp → Result
  | .wr r v => s.writeReg r v
  | .rd r => .next (s.logRead (.rd r) (s.readReg r))
  | .wb b off bs => s.hostWriteBytes b off bs
  | .poll => .next (s.logRead .poll (s.readReg .status))
  | .store a w v => s.hostStore a w v
  | .load a w => s.hostLoad a w
  | .adapterTake => s.adapterTake
  | .udpTake => s.udpTake
  | .reset => .next s.hardReset
  | .wait => .next s

/-- The state with the rest of its script. -/
def State.withScript (s : State) (ops : List EnvOp) : State := { s with env := { s.env with script := ops } }

/-- `PROC <len>` (30_encoding R132). -/
def scriptProc (len : Word) : List EnvOp := [.wr .frameLen len, .wr .cmd 0x00000001, .poll]

/-- The value of CS_A_OFF or CS_B_OFF for `<sel>:<off>`: `(<sel> << 16) | <off>` (30_encoding R132). -/
def regionOperand (sel : Buf) (off : Word) : Word := (sel.bit.setWidth 32 <<< 16) ||| off

/-- `CSUM <sel>:<off>, <n>, <odd>` (30_encoding R132). -/
def scriptCsum (sel : Buf) (off n odd : Word) : List EnvOp :=
  [.wr .csAOff (regionOperand sel off), .wr .csAWords n, .wr .csOdd odd, .wr .cmd 0x00000002, .poll]

/-- `CSUM2 <selA>:<offA>, <nA>, <selB>:<offB>, <nB>, <odd>` (30_encoding R132). -/
def scriptCsum2 (selA : Buf) (offA nA : Word) (selB : Buf) (offB nB odd : Word) : List EnvOp :=
  [.wr .csAOff (regionOperand selA offA), .wr .csAWords nA, .wr .csBOff (regionOperand selB offB),
    .wr .csBWords nB, .wr .csOdd odd, .wr .cmd 0x00000003, .poll]

/-- `SETIP a.b.c.d` (30_encoding R132). -/
def scriptSetIp (a b c d : Byte) : List EnvOp := [.wr .devIp (a ++ b ++ c ++ d)]

end Sys2Proof.Machine
end

