-- ==== Sys2Proof/Machine/Engine.lean ====
section
/-! DEFINITION. One step of the engine, one step of the whole machine, and how an instruction is placed
where the next step runs it. -/

namespace Sys2Proof.Machine

/-- One step of the engine: in IDLE nothing (60_exceptions R286); in BUSY the next code word is read,
decoded and run (30_encoding R130, log 6). A word that is no row ends the command (R102, R118). -/
def State.engineStep (s : State) : Result :=
  match s.phase with
  | .idle => .next s
  | .busy f =>
    match s.fetch f with
    | .error e => .fault e
    | .ok raw =>
      match decode raw with
      | .instr i => exec i s
      | .reject r => .next (s.drop (rejectOutcome r))

/-- One step of the machine (log 7). With no script the engine moves. `POLL` reads STATUS until BUSY = 0
(30_encoding R131): while BUSY the engine moves and `POLL` stays. `wait` lets the engine make one step.
Every other action is the outside world's, and the engine stands still. -/
def State.advance (s : State) : Result :=
  match s.env.script with
  | [] => s.engineStep
  | op :: rest =>
    if op = .poll ∧ s.phase.isBusy = true then s.engineStep
    else if op = .wait then (s.withScript rest).engineStep
    else (s.withScript rest).act op

/-! ### Placing an instruction -/

/-- The two bytes of a 16-bit wire field. -/
def setHalf (f : List Byte) (off : Nat) (v : Half) : List Byte :=
  (f.set off (v.extractLsb' 8 8)).set (off + 1) (v.extractLsb' 0 8)

/-- The carrier frame of a wire row (log 10): 42 bytes to `dst`, zero but for EtherType 0x0800, IHL 5,
total length 28, protocol ICMP, ICMP type 8 and UDP length 8. -/
def carrierBase (dst : List Byte) : List Byte :=
  dst ++ [0, 0, 0, 0, 0, 0, 0x08, 0x00, 0x45, 0, 0, 28, 0, 0, 0, 0, 0, 1, 0, 0, 0, 0, 0, 0, 0, 0, 0, 0,
    0x08, 0, 0, 0, 0, 8, 0, 0]

/-- The carrier frame with the code word at the place its encoding is read from (opcode_table.json). -/
def carrierFrame (mac : List Byte) : Raw → List Byte
  | .c _ => carrierBase mac
  | .ethClass w => setHalf (carrierBase (if w = etherArp then broadcastMac else mac)) 12 w
  | .ipProto b => (carrierBase mac).set 23 b
  | .icmpType b => (carrierBase mac).set 34 b
  | .udpCsum w => setHalf (carrierBase mac) 40 w

/-- The pseudo-header of the carrier frame, which the UDP stage has left in TX before it decodes the
checksum field (45_udp R252, log 10). -/
def carrierTx : Raw → List Byte
  | .c _ => []
  | .ethClass _ => []
  | .ipProto _ => []
  | .icmpType _ => []
  | .udpCsum _ => [0, 0, 0, 0, 0, 0, 0, 0, 0, 17, 0, 8, 0x08, 0, 0, 0, 0, 8, 0, 0]

/-- The engine in the middle of a PROC of the carrier frame, about to decode `raw` (log 10). -/
def State.carry (s : State) (raw : Raw) : State :=
  { s with
    phase := .busy raw.format
    lat := { s.lat with op := 0x1, frameLen := 42, devIp := s.regs.devIp }
    rx := s.rx.putBytes 0 (carrierFrame s.cfg.deviceMac.bytes raw)
    tx := s.tx.putBytes 0 (carrierTx raw) }

/-- A code word where the next step reads it: a command word written to CMD in IDLE, a wire word in a
carrier frame; the outside world stands still (log 10). -/
def State.placeRaw (s : State) (raw : Raw) : State :=
  match raw with
  | .c w => ({ s.withScript [] with phase := .idle }).cmdWrite w
  | .ethClass _ => (s.withScript []).carry raw
  | .ipProto _ => (s.withScript []).carry raw
  | .icmpType _ => (s.withScript []).carry raw
  | .udpCsum _ => (s.withScript []).carry raw

/-- The code word to place for the table's word `w` of `nbits` bits: the one that decodes, or the first
candidate where none does (log 9). -/
def placedRaw (nbits w : Nat) : Option Raw :=
  match decodeTableRaw nbits w with
  | some (r, _) => some r
  | none => (rawCandidates nbits w).head?

/-- The table's word placed where the next step runs it; a width no encoding has places nothing. -/
def State.placeTableWord (s : State) (nbits w : Nat) : State :=
  match placedRaw nbits w with
  | some r => s.placeRaw r
  | none => s

end Sys2Proof.Machine
end

