-- ==== Sys2Proof/Machine/Step.lean ====
section
/-! DEFINITION. The step function, and the host's way to place an instruction before it. -/

namespace Sys2Proof.Machine

/-- One step of the machine. -/
def step (s : State) : Host.Outcome State Fault Refusal := s.advance

/-- `s` with the table's word `w` of `nbits` bits placed so that `step` runs it next (log 10). -/
def State.withFetchWord (s : State) (nbits w : Nat) : State := s.placeTableWord nbits w

end Sys2Proof.Machine
end

