-- ==== Sys2Proof/Safety.lean ====
section
/-! DEFINITION. The terms claims are stated in: runs of steps, the invariant of the machine, and the spec's
PROC as ONE function from a whole frame to its outcome (41_dispatch R173, 42_arp R190, 43_ipv4 R210,
44_icmp R230, 45_udp R250), written over byte lists and not over the machine's operations. -/

namespace Sys2Proof.Machine

/-! ### Runs -/

/-- `n` steps, stopping at the first fault or refusal. -/
def runFor : Nat → State → Result
  | 0, s => .next s
  | n + 1, s =>
    match step s with
    | .next t => runFor n t
    | .fault f => .fault f
    | .refused r => .refused r

/-! ### A frame as a list of bytes -/

/-- The `n` bytes from offset `o`. -/
def slice (f : List Byte) (o n : Nat) : List Byte := (f.drop o).take n

/-- The byte at an offset; the offset lies inside the frame wherever a claim uses it. -/
def byteAt (f : List Byte) (o : Nat) : Byte := f.getD o 0x00

/-- A 2-byte big-endian field (20_memory R74). -/
def halfAt (f : List Byte) (o : Nat) : Half := byteAt f o ++ byteAt f (o + 1)

/-- A 4-byte big-endian field (20_memory R74). -/
def wordAt (f : List Byte) (o : Nat) : Word := halfAt f o ++ halfAt f (o + 2)

/-- The big-endian words of a byte list, a trailing odd byte being the high byte of its word
(40_checksum R142, 20_memory R75). -/
def beWords : List Byte → List Half
  | [] => []
  | [a] => [a ++ 0x00#8]
  | a :: b :: bs => (a ++ b) :: beWords bs

/-- The checksum of the `n` bytes from `o` with the field at `field` read as zero (40_checksum R145). -/
def zeroFieldChecksum (f : List Byte) (o n field : Nat) : Half :=
  inet (beWords (slice (setHalf f field 0x0000) o n))

/-- The stored field equals the checksum of the region with the field read as zero (40_checksum R150). -/
def verifies (f : List Byte) (o n field : Nat) : Bool :=
  decide (zeroFieldChecksum f o n field = halfAt f field)

/-- The frame with the region's checksum stored in its field (40_checksum R151). -/
def regenerated (f : List Byte) (o n field : Nat) : List Byte :=
  setHalf f field (zeroFieldChecksum f o n field)

/-! ### PROC as one function of the frame -/

/-- What a whole PROC leaves: its outcome, the frame, the 20 bytes it wrote to TX if it wrote any, and its
event if it emitted one. -/
structure Verdict where
  code  : OutcomeCode
  frame : List Byte
  tx    : Option (List Byte)
  event : Option PortEvent
  deriving DecidableEq, Repr

/-- A drop that has written nothing (41_dispatch R172). -/
def Verdict.drop (code : OutcomeCode) (f : List Byte) : Verdict := ⟨code, f, none, none⟩

/-- The first 42 bytes of an ARP request turned into the reply (42_arp R197), the rest kept (R199). -/
def arpReplyFrame (mac f : List Byte) : List Byte :=
  slice f 6 6 ++ mac ++ slice f 12 8 ++ [0x00, 0x02] ++ mac ++ slice f 38 4 ++ slice f 22 6
    ++ slice f 28 4 ++ f.drop 42

/-- The ARP responder (42_arp R190). -/
def arpVerdict (mac : List Byte) (ip : Word) (f : List Byte) : Verdict :=
  if f.length < 42 then .drop .dropArpLen f
  else if halfAt f 14 ≠ 0x0001 then .drop .dropArpHtype f
  else if halfAt f 16 ≠ 0x0800 then .drop .dropArpPtype f
  else if halfAt f 20 ≠ 0x0001 then .drop .dropArpOper f
  else if ip = 0 then .drop .dropArpNoIp f
  else if wordAt f 38 ≠ ip then .drop .dropArpTarget f
  else ⟨.arpReplyTx, arpReplyFrame mac f, none, some (.transmit .rx 42)⟩

/-- IHL (30_encoding R110). -/
def frameIhl (f : List Byte) : Nat := (byteAt f 14).toNat % 16

/-- The IPv4 total length (30_encoding R110). -/
def frameTotalLen (f : List Byte) : Nat := (halfAt f 16).toNat

/-- The offset of the IPv4 payload (30_encoding R110). -/
def framePayload (f : List Byte) : Nat := 14 + 4 * frameIhl f

/-- The frame with MAC and IP addresses swapped and the ICMP type 0 (44_icmp R234-R236). -/
def echoSwapped (f : List Byte) : List Byte :=
  (slice f 6 6 ++ slice f 0 6 ++ slice f 12 14 ++ slice f 30 4 ++ slice f 26 4 ++ f.drop 34).set
    (framePayload f) 0x00

/-- The echo reply: the swapped frame with both checksums regenerated, IPv4 first (44_icmp R237, R238). -/
def echoReplyFrame (f : List Byte) : List Byte :=
  regenerated (regenerated (echoSwapped f) 14 (4 * frameIhl f) 24)
    (framePayload f) (frameTotalLen f - 4 * frameIhl f) (framePayload f + 2)

/-- The ICMP echo responder (44_icmp R230). -/
def icmpVerdict (f : List Byte) : Verdict :=
  if frameTotalLen f < 4 * frameIhl f + 8 ∨ f.length < 14 + frameTotalLen f then .drop .dropIcmpLen f
  else if byteAt f (framePayload f) ≠ 8 then .drop .dropIcmpType f
  else if verifies f (framePayload f) (frameTotalLen f - 4 * frameIhl f) (framePayload f + 2) = false then
    .drop .dropIcmpCsum f
  else ⟨.icmpReplyTx, echoReplyFrame f, none, some (.transmit .rx (BitVec.ofNat 16 f.length))⟩

/-- The UDP length field (30_encoding R115). -/
def frameUdpLen (f : List Byte) : Half := halfAt f (framePayload f + 4)

/-- The stored UDP checksum (30_encoding R115). -/
def frameUdpCsum (f : List Byte) : Half := halfAt f (framePayload f + 6)

/-- The 20 bytes of the pseudo-header and the UDP header copy (30_encoding R116). -/
def pseudoHeader (f : List Byte) : List Byte :=
  slice f 26 8 ++ [0x00, 17] ++ halfBytes (frameUdpLen f) ++ slice f (framePayload f) 4
    ++ halfBytes (frameUdpLen f) ++ [0x00, 0x00]

/-- The computed UDP checksum C (45_udp R254). -/
def udpComputed (f : List Byte) : Half :=
  inet (beWords (pseudoHeader f) ++ beWords (slice f (framePayload f + 8) ((frameUdpLen f).toNat - 8)))

/-- The stored value the comparison uses: 0xFFFF stands for 0x0000 (45_udp R254). -/
def udpRemap (s : Half) : Half := if s = 0xFFFF then 0x0000 else s

/-- The UDP validator (45_udp R250). -/
def udpVerdict (f : List Byte) : Verdict :=
  if frameTotalLen f < 4 * frameIhl f + 8 ∨ f.length < 14 + frameTotalLen f then .drop .dropUdpLen f
  else if (frameUdpLen f).toNat < 8 ∨ frameTotalLen f - 4 * frameIhl f < (frameUdpLen f).toNat then
    .drop .dropUdpLen f
  else if frameUdpCsum f ≠ 0x0000 ∧ udpComputed f ≠ udpRemap (frameUdpCsum f) then
    ⟨.dropUdpCsum, f, some (pseudoHeader f), none⟩
  else
    ⟨.udpHandoff, f, some (pseudoHeader f),
      some (.udpAccept (BitVec.ofNat 16 (framePayload f)) (frameUdpLen f))⟩

/-- The IPv4 validator (43_ipv4 R210). -/
def ipv4Verdict (f : List Byte) : Verdict :=
  if f.length < 34 then .drop .dropIpLen f
  else if halfAt f 20 &&& 0x3FFF ≠ 0 then .drop .dropIpFrag f
  else if frameIhl f < 5 ∨ f.length < framePayload f then .drop .dropIpIhl f
  else if verifies f 14 (4 * frameIhl f) 24 = false then .drop .dropIpCsum f
  else if byteAt f 23 = 1 then icmpVerdict f
  else if byteAt f 23 = 17 then udpVerdict f
  else .drop .dropIpProto f

/-- PROC (41_dispatch R173) of the frame `f` on a core with MAC `mac`, buffer size `rxBytes` and the
latched DEV_IP `ip`. -/
def procVerdict (mac : List Byte) (rxBytes : Nat) (ip : Word) (f : List Byte) : Verdict :=
  if f.length < 14 ∨ rxBytes < f.length then .drop .dropFrameLen f
  else if halfAt f 12 ≠ 0x0800 ∧ halfAt f 12 ≠ 0x0806 then .drop .dropEthertype f
  else if slice f 0 6 = mac then
    if halfAt f 12 = 0x0800 then ipv4Verdict f else .drop .dropClass f
  else if slice f 0 6 = List.replicate 6 0xFF then
    if halfAt f 12 = 0x0806 then arpVerdict mac ip f else .drop .dropClass f
  else .drop .dropNotOurs f

/-! ### The invariant -/

/-- A buffer is in canonical form and holds no cell outside its size (20_memory R70). -/
abbrev Memory.fits (m : Memory) (size : Nat) : Prop := m.wf ∧ ∀ c ∈ m, c.1 < size

/-- DONE and OUTCOME agree with PHASE (10_state R36, R37, R39). -/
def State.statusOk (s : State) : Prop :=
  match s.phase with
  | .idle => s.status.done = true ↔ s.status.outcome ≠ .none
  | .busy _ => s.status.done = false

/-- A running command is a legal one, and only PROC goes on to a wire encoding (41_dispatch R170, log 6). -/
def State.latchOk (s : State) : Prop :=
  match s.phase with
  | .idle => True
  | .busy .c => s.lat.op = 0x1 ∨ s.lat.op = 0x2 ∨ s.lat.op = 0x3
  | .busy .ethClass => s.lat.op = 0x1
  | .busy .ipProto => s.lat.op = 0x1
  | .busy .icmpType => s.lat.op = 0x1
  | .busy .udpCsum => s.lat.op = 0x1

/-- The frame's length lies inside the buffer (41_dispatch R174). -/
def State.frameLenOk (s : State) : Prop :=
  14 ≤ s.lat.frameLen.toNat ∧ s.lat.frameLen.toNat ≤ s.cfg.rxBufBytes

/-- What the IPv4 validator has checked (43_ipv4 R211-R214). -/
def State.ipHeaderOk (s : State) (ihl : Nat) : Prop :=
  s.frameLenOk ∧ 34 ≤ s.lat.frameLen.toNat
    ∧ s.etherType = .ok etherIpv4 ∧ s.dstMac = .ok s.cfg.deviceMac.bytes
    ∧ (∃ ff, s.be16 .rx 20 = .ok ff ∧ ff &&& fragMask = 0x0000)
    ∧ s.ihl = .ok ihl ∧ 5 ≤ ihl ∧ payloadOff ihl ≤ s.lat.frameLen.toNat
    ∧ ∃ t, s.verify .rx 14 (2 * ihl) false 24 = .ok (true, t)

/-- What the length checks of the ICMP and UDP stages have checked (44_icmp R231, 45_udp R251). -/
def State.payloadOk (s : State) (ihl tl : Nat) : Prop :=
  s.totalLen = .ok tl ∧ 4 * ihl + 8 ≤ tl ∧ 14 + tl ≤ s.lat.frameLen.toNat

/-- TX bytes 0..19 hold the pseudo-header of the datagram at `p` (45_udp R252, 30_encoding R116). -/
def State.pseudoHeaderOk (s : State) (p : Nat) (len : Half) : Prop :=
  ∃ src dst ports, s.memRead .rx 26 4 = .ok src ∧ s.memRead .rx 30 4 = .ok dst
    ∧ s.memRead .rx p 4 = .ok ports
    ∧ s.memRead .tx 0 20
        = .ok (src ++ dst ++ [0x00, 17] ++ halfBytes len ++ ports ++ halfBytes len ++ [0x00, 0x00])

/-- What the running PROC has already checked of its frame, at each of its encodings (30_encoding R130). -/
def State.frameOk (s : State) : Prop :=
  match s.phase with
  | .idle => True
  | .busy .c => True
  | .busy .ethClass =>
    s.frameLenOk ∧
      ((s.etherType = .ok etherIpv4 ∧ s.dstMac = .ok s.cfg.deviceMac.bytes)
        ∨ (s.etherType = .ok etherArp ∧ s.dstMac = .ok broadcastMac))
  | .busy .ipProto =>
    ∃ ihl, s.ipHeaderOk ihl ∧ (s.readByte .rx 23 = .ok protoIcmp ∨ s.readByte .rx 23 = .ok protoUdp)
  | .busy .icmpType =>
    ∃ ihl tl, s.ipHeaderOk ihl ∧ s.payloadOk ihl tl
      ∧ s.readByte .rx (payloadOff ihl) = .ok icmpEchoRequest
  | .busy .udpCsum =>
    ∃ ihl tl len, s.ipHeaderOk ihl ∧ s.payloadOk ihl tl
      ∧ s.udpLength (payloadOff ihl) = .ok len ∧ 8 ≤ len.toNat ∧ len.toNat ≤ tl - 4 * ihl
      ∧ s.pseudoHeaderOk (payloadOff ihl) len

/-- A pending event is the one its information register records and lies inside RX (10_state R50, R51). -/
def State.portsOk (s : State) : Prop :=
  (∀ len, s.ports.txPending = some len → len = s.regs.txLen ∧ len.toNat ≤ s.cfg.rxBufBytes)
    ∧ ∀ off len, s.ports.udpPending = some (off, len) →
        off = s.regs.udpOff ∧ len = s.regs.udpLen ∧ off.toNat + len.toNat ≤ s.cfg.rxBufBytes

/-- The invariant of the machine. -/
structure State.Inv (s : State) : Prop where
  params : s.cfg.wf = true
  rx     : s.rx.fits s.cfg.rxBufBytes
  tx     : s.tx.fits s.cfg.txBufBytes
  status : s.statusOk
  latch  : s.latchOk
  frame  : s.frameOk
  ports  : s.portsOk

/-! ### The platform's windows -/

/-- The platform address of byte 0 of a buffer: RX_WIN_BASE + FRAME_BASE (20_memory R71), TX_WIN_BASE (R72). -/
def windowStart (p : Params) : Buf → Nat
  | .rx => p.rxWinBase + p.frameBase
  | .tx => p.txWinBase

/-- Two ranges of `m` bytes from `a` and `n` bytes from `b` have no address in common. -/
abbrev Apart (a m b n : Nat) : Prop := a + m ≤ b ∨ b + n ≤ a

/-- The register block and the two windows do not overlap (log 13). -/
abbrev WindowsApart (p : Params) : Prop :=
  Apart p.regBase 0x40 (windowStart p .rx) p.rxBufBytes
    ∧ Apart p.regBase 0x40 (windowStart p .tx) p.txBufBytes
    ∧ Apart (windowStart p .rx) p.rxBufBytes (windowStart p .tx) p.txBufBytes

/-! ### How a command ends or goes on -/

/-- Every byte of both buffers reads as before. -/
def State.SameBytes (s t : State) : Prop := ∀ b o, t.readByte b o = s.readByte b o

/-- The parameters and the outside world are as before. -/
def State.SameWorld (s t : State) : Prop := t.cfg = s.cfg ∧ t.env = s.env

/-- The command has ended with `code` (41_dispatch R171): PHASE, DONE and OUTCOME are written, ERR_BUSY and
LAST_OP are not. -/
structure State.Ended (s t : State) (code : OutcomeCode) : Prop where
  phase   : t.phase = .idle
  done    : t.status.done = true
  outcome : t.status.outcome = code
  errBusy : t.status.errBusy = s.status.errBusy
  lastOp  : t.status.lastOp = s.status.lastOp

/-- The command has ended with `code` and has written nothing but STATUS (41_dispatch R172). -/
structure State.Dropped (s t : State) (code : OutcomeCode) : Prop where
  ended : s.Ended t code
  regs  : t.regs = s.regs
  ports : t.ports = s.ports
  bytes : s.SameBytes t
  world : s.SameWorld t

/-- The command goes on to the encoding `f` and has written nothing. -/
structure State.Entered (s t : State) (f : Format) : Prop where
  phase  : t.phase = .busy f
  status : t.status = s.status
  lat    : t.lat = s.lat
  regs   : t.regs = s.regs
  ports  : t.ports = s.ports
  bytes  : s.SameBytes t
  world  : s.SameWorld t

/-- The command has ended with `code` after the one event `transmit(RX, len)` (30_encoding R128). -/
structure State.Transmitted (s t : State) (code : OutcomeCode) (len : Half) : Prop where
  ended : s.Ended t code
  regs  : t.regs = { s.regs with txLen := len }
  ports : t.ports =
    { s.ports with txPending := some len, events := s.ports.events ++ [.transmit .rx len] }
  world : s.SameWorld t

/-- The command has ended with UDP_HANDOFF after the one event `udp_accept(off, len)` (30_encoding R129,
45_udp R255). -/
structure State.HandedOff (s t : State) (off len : Half) : Prop where
  ended : s.Ended t .udpHandoff
  regs  : t.regs = { s.regs with udpOff := off, udpLen := len }
  ports : t.ports =
    { s.ports with udpPending := some (off, len), events := s.ports.events ++ [.udpAccept off len] }
  bytes : s.SameBytes t
  world : s.SameWorld t

/-- The outcome of the first check that fails, in the order listed (60_exceptions R276). -/
def firstFailing : List (Bool × OutcomeCode) → Option OutcomeCode
  | [] => none
  | (fails, code) :: rest => if fails then some code else firstFailing rest

/-! ### What a command needs of the host -/

/-- The bytes the latched command reads have been written (70_reset R293 (2)): a PROC's whole frame, or
every region of a checksum command that is in range. -/
def State.operandsWritten (s : State) : Prop :=
  (s.lat.op = 0x1 → s.lat.frameLen.toNat ≤ s.cfg.rxBufBytes →
      ∃ f, s.memRead .rx 0 s.lat.frameLen.toNat = .ok f)
    ∧ (s.lat.op = 0x2 → s.inRange s.lat.a s.lat.odd = true →
      ∃ bs, s.memRead s.lat.a.sel s.lat.a.off.toNat (s.lat.a.byteLen s.lat.odd) = .ok bs)
    ∧ (s.lat.op = 0x3 → s.inRange s.lat.a false = true → s.inRange s.lat.b s.lat.odd = true →
      (∃ bs, s.memRead s.lat.a.sel s.lat.a.off.toNat (s.lat.a.byteLen false) = .ok bs)
        ∧ ∃ bs, s.memRead s.lat.b.sel s.lat.b.off.toNat (s.lat.b.byteLen s.lat.odd) = .ok bs)

end Sys2Proof.Machine
end

