-- ==== Sys2Proof/Certificates/Slice0/Obligations.lean ====
section
/-! DEFINITION. The statements for the provers. Where a statement speaks of a value the spec leaves free
(ACC after a computation, the latches after a command), it holds for every value of it. -/

open Sys2Proof Sys2Proof.Machine

/-! ### The encodings -/

/-- Words written out from the table's match column and 30_encoding R101, R106, R113, R114, R115. Which
encoding a 16-bit or an 8-bit word of the table is tried in first (so that 0x0806 and 0x0800 are EtherTypes
and not UDP checksum fields) is the model's choice, log 9. -/
def Obligations.TableWordsDecode : Prop :=
  decodeTableWord 32 0x00000001 = some .proc ∧ decodeTableWord 32 0x00000002 = some .csum
    ∧ decodeTableWord 32 0x00000003 = some .csum2 ∧ decodeTableWord 16 0x0806 = some .arpReq
    ∧ decodeTableWord 16 0x0800 = some .ipv4Unicast ∧ decodeTableWord 8 0x01 = some .icmp
    ∧ decodeTableWord 8 0x08 = some .icmpEchoReq ∧ decodeTableWord 8 0x11 = some .udp
    ∧ decodeTableWord 16 0x0000 = some .udpCsumNone ∧ decodeTableWord 16 0xFFFF = some .udpCsumFfff
    ∧ decodeTableWord 16 0xB5CB = some (.udpCsum 0xB5CB)

/-- Decode and encode agree in both directions, for every instruction and every code word of every
encoding; so no two rows share a word, and every value of UDP_CSUM's operand is covered. -/
def Obligations.DecodeEncodeAgree : Prop :=
  (∀ i : Instr, i.wf = true → decode (encode i) = .instr i)
    ∧ (∀ (r : Raw) (i : Instr), decode r = .instr i → i.wf = true ∧ encode i = r ∧ i.format = r.format)
    ∧ ∀ i j : Instr, i.wf = true → j.wf = true → encode i = encode j → i = j

/-- 30_encoding R102: a command word is legal exactly when RSV is 0 and OP is 1, 2 or 3. -/
def Obligations.IllegalCommandWords : Prop :=
  ∀ w : Word,
    (decode (.c w) = .reject .illegalCommand ↔
      w.setWidth 4 ∉ [(0x1 : BitVec 4), 0x2, 0x3] ∨ w.extractLsb' 4 28 ≠ 0)
    ∧ ∀ (s : State) (rest : List EnvOp), s.phase = .idle → s.env.script = .wr .cmd w :: rest →
        decode (.c w) = .reject .illegalCommand →
        ∃ t, step s = .next t ∧ t.phase = .idle ∧ t.status.done = true ∧ t.status.outcome = .errCmd
          ∧ t.status.errBusy = s.status.errBusy ∧ t.status.lastOp = w.setWidth 4
          ∧ t.regs = s.regs ∧ t.ports = s.ports ∧ t.acc = s.acc ∧ s.SameBytes t ∧ t.cfg = s.cfg
          ∧ t.env = { s.env with script := rest }

/-! ### The checksum accumulator -/

/-- 40_checksum R143: ACC's final value in closed form, whatever it held before, and the value of a 32-bit
software accumulator folded twice. -/
def Obligations.AccumulatorClosedForm : Prop :=
  ∀ (s : State) (ws : List Half),
    let total := (ws.map BitVec.toNat).sum
    let fold := fun x : Nat => x / 65536 + x % 65536
    (s.accSum ws).acc = ocsum ws
      ∧ (ocsum ws).toNat = (if total = 0 then 0 else (total - 1) % 0xFFFF + 1)
      ∧ (ocsum ws = 0x0000 ↔ ∀ w ∈ ws, w = 0x0000)
      ∧ (ws.length ≤ 65537 → total < 2 ^ 32 ∧ fold (fold total) = (ocsum ws).toNat)

/-- 40_checksum R144: the complement, and the two extreme values. -/
def Obligations.InternetChecksumExtremes : Prop :=
  ∀ ws : List Half,
    (inet ws).toNat = 0xFFFF - (ocsum ws).toNat ∧ inet ws = ~~~(ocsum ws)
      ∧ (inet ws = 0xFFFF ↔ ∀ w ∈ ws, w = 0x0000) ∧ (inet ws = 0x0000 ↔ ocsum ws = 0xFFFF)

/-- 40_checksum R146 (a)-(d). -/
def Obligations.FoldedSumLaws : Prop :=
  (∀ ws vs : List Half, ws.Perm vs → ocsum ws = ocsum vs)
    ∧ (∀ ws vs : List Half, ocsum (ws ++ vs) = ocadd (ocsum ws) (ocsum vs))
    ∧ (∀ ws : List Half, ocsum (ws ++ [0x0000]) = ocsum ws)
    ∧ (∀ (s : State) (b : Buf) (o n : Nat) (ws : List Half),
        s.words b o n false = .ok ws → s.readByte b (o + 2 * n) = .ok 0x00 →
        ∃ vs, s.words b o n true = .ok vs ∧ ocsum vs = ocsum ws)
    ∧ ∀ p x m y q : List Half, x.length = y.length →
        ocsum (p ++ x ++ m ++ y ++ q) = ocsum (p ++ y ++ m ++ x ++ q)

/-- 40_checksum R142, 20_memory R75: the words of a region are its bytes in pairs, the lower offset in
the high byte, and a trailing odd byte is the high byte of its word; the padding byte is never read. -/
def Obligations.RegionWordsAreBytePairs : Prop :=
  ∀ (s : State) (b : Buf) (o n : Nat) (odd : Bool) (bs : List Byte),
    s.memRead b o (2 * n + odd.toNat) = .ok bs → s.words b o n odd = .ok (beWords bs)

/-- 40_checksum R153, its general part: when a stored field `saved` verifies against the folded sum X of
the region with the field read as zero. -/
def Obligations.ReceivedMessageLaw : Prop :=
  ∀ (s : State) (b : Buf) (o n : Nat) (odd : Bool) (f : Nat) (ws : List Half) (saved : Half),
    s.wordsZ b o n odd f = .ok ws → s.be16 b f = .ok saved →
    ∃ pass t, s.verify b o n odd f = .ok (pass, t)
      ∧ ((∀ w ∈ ws, w = 0x0000) → (pass = true ↔ saved = 0xFFFF))
      ∧ (¬(∀ w ∈ ws, w = 0x0000) →
          (pass = true ↔ saved ≠ 0xFFFF ∧ ocadd (ocsum ws) saved = 0xFFFF))
      ∧ s.SameBytes t ∧ t.regs = s.regs ∧ t.status = s.status ∧ t.ports = s.ports

/-- 40_checksum R151, R152: after generate the region verifies, for even and odd lengths alike, and only
the two bytes of the field have changed. -/
def Obligations.GenerateThenVerify : Prop :=
  ∀ (s : State) (b : Buf) (o n : Nat) (odd : Bool) (f : Nat) (bs : List Byte),
    s.memRead b o (2 * n + odd.toNat) = .ok bs → f + 2 ≤ s.size b →
    ∃ t u, s.generate b o n odd f = .ok t ∧ t.verify b o n odd f = .ok (true, u)
      ∧ (∀ b' a, b' ≠ b ∨ (a ≠ f ∧ a ≠ f + 1) → t.readByte b' a = s.readByte b' a)
      ∧ t.regs = s.regs ∧ t.status = s.status ∧ t.ports = s.ports ∧ t.phase = s.phase

/-! ### CSUM and CSUM2 -/

/-- 40_checksum R147: CSUM of a region in range whose bytes are written. -/
def Obligations.CsumComputesRegion : Prop :=
  ∀ (s : State) (bs : List Byte),
    s.lat.a.off.toNat + 2 * s.lat.a.n.toNat + s.lat.odd.toNat ≤ s.size s.lat.a.sel →
    s.memRead s.lat.a.sel s.lat.a.off.toNat (2 * s.lat.a.n.toNat + s.lat.odd.toNat) = .ok bs →
    ∃ t, exec .csum s = .next t ∧ s.Ended t .csumOk
      ∧ t.regs = { s.regs with csResult := inet (beWords bs) }
      ∧ t.ports = s.ports ∧ s.SameBytes t ∧ s.SameWorld t

/-- 40_checksum R148: CSUM2 of two regions in range whose bytes are written; region A has no odd byte. -/
def Obligations.Csum2ComputesBothRegions : Prop :=
  ∀ (s : State) (as bs : List Byte),
    s.lat.a.off.toNat + 2 * s.lat.a.n.toNat ≤ s.size s.lat.a.sel →
    s.lat.b.off.toNat + 2 * s.lat.b.n.toNat + s.lat.odd.toNat ≤ s.size s.lat.b.sel →
    s.memRead s.lat.a.sel s.lat.a.off.toNat (2 * s.lat.a.n.toNat) = .ok as →
    s.memRead s.lat.b.sel s.lat.b.off.toNat (2 * s.lat.b.n.toNat + s.lat.odd.toNat) = .ok bs →
    ∃ t, exec .csum2 s = .next t ∧ s.Ended t .csumOk
      ∧ t.regs = { s.regs with csResult := inet (beWords as ++ beWords bs) }
      ∧ (inet (beWords as ++ beWords bs) = inet (beWords (as ++ bs)))
      ∧ t.ports = s.ports ∧ s.SameBytes t ∧ s.SameWorld t

/-- 40_checksum R149, 60_exceptions R273: a region that ends past its buffer, computed without wrap-around,
ends the command with ERR_RANGE; no byte is read (the buffers may be unwritten) and nothing but STATUS
is written. An empty region at the end of the buffer is in range. -/
def Obligations.OutOfRangeRegions : Prop :=
  (∀ (s : State) (r : Region) (odd : Bool),
      s.inRange r odd = true ↔ r.off.toNat + 2 * r.n.toNat + odd.toNat ≤ s.size r.sel)
    ∧ (∀ s : State, s.inRange s.lat.a s.lat.odd = false →
        ∃ t, exec .csum s = .next t ∧ s.Dropped t .errRange)
    ∧ ∀ s : State, (s.inRange s.lat.a false = false ∨ s.inRange s.lat.b s.lat.odd = false) →
        ∃ t, exec .csum2 s = .next t ∧ s.Dropped t .errRange

/-! ### PROC, stage by stage -/

/-- 41_dispatch R173-R176: PROC's checks in order; no byte is read before the length bound. -/
def Obligations.ProcClassifiesFrame : Prop :=
  ∀ (s : State) (f : List Byte),
    (14 ≤ s.lat.frameLen.toNat → s.lat.frameLen.toNat ≤ s.cfg.rxBufBytes →
      s.memRead .rx 0 14 = .ok f) →
    ∃ t, exec .proc s = .next t ∧
      match firstFailing
        [(decide (s.lat.frameLen.toNat < 14 ∨ s.cfg.rxBufBytes < s.lat.frameLen.toNat), .dropFrameLen),
          (decide (halfAt f 12 ≠ 0x0800 ∧ halfAt f 12 ≠ 0x0806), .dropEthertype),
          (decide (slice f 0 6 = s.cfg.deviceMac.bytes ∧ halfAt f 12 ≠ 0x0800), .dropClass),
          (decide (slice f 0 6 ≠ s.cfg.deviceMac.bytes ∧ slice f 0 6 = List.replicate 6 0xFF
            ∧ halfAt f 12 ≠ 0x0806), .dropClass),
          (decide (slice f 0 6 ≠ s.cfg.deviceMac.bytes ∧ slice f 0 6 ≠ List.replicate 6 0xFF),
            .dropNotOurs)] with
      | some code => s.Dropped t code
      | none => s.Entered t .ethClass

/-- 42_arp R190-R199: the checks in order, then the reply in place and its transmission; every byte of RX
at or beyond 42 and every byte of TX is unchanged. -/
def Obligations.ArpRequestAnswered : Prop :=
  ∀ (s : State) (f : List Byte), (42 ≤ s.lat.frameLen.toNat → s.memRead .rx 0 42 = .ok f) →
    ∃ t, exec .arpReq s = .next t ∧
      match firstFailing
        [(decide (s.lat.frameLen.toNat < 42), .dropArpLen),
          (decide (halfAt f 14 ≠ 0x0001), .dropArpHtype),
          (decide (halfAt f 16 ≠ 0x0800), .dropArpPtype),
          (decide (halfAt f 20 ≠ 0x0001), .dropArpOper),
          (decide (s.lat.devIp = 0x00000000), .dropArpNoIp),
          (decide (wordAt f 38 ≠ s.lat.devIp), .dropArpTarget)] with
      | some code => s.Dropped t code
      | none =>
        s.Transmitted t .arpReplyTx 42
          ∧ t.memRead .rx 0 42 = .ok (slice f 6 6 ++ s.cfg.deviceMac.bytes ++ slice f 12 8 ++ [0x00, 0x02]
              ++ s.cfg.deviceMac.bytes ++ slice f 38 4 ++ slice f 22 6 ++ slice f 28 4)
          ∧ (∀ o, 42 ≤ o → t.readByte .rx o = s.readByte .rx o)
          ∧ ∀ o, t.readByte .tx o = s.readByte .tx o

/-- 43_ipv4 R211-R217: the validator's checks in order; it writes nothing but STATUS. -/
def Obligations.Ipv4ValidatorChecks : Prop :=
  ∀ (s : State) (f : List Byte),
    (34 ≤ s.lat.frameLen.toNat → s.memRead .rx 0 s.lat.frameLen.toNat = .ok f) →
    ∃ t, exec .ipv4Unicast s = .next t ∧
      match firstFailing
        [(decide (s.lat.frameLen.toNat < 34), .dropIpLen),
          (decide (halfAt f 20 &&& 0x3FFF ≠ 0), .dropIpFrag),
          (decide (frameIhl f < 5 ∨ s.lat.frameLen.toNat < 14 + 4 * frameIhl f), .dropIpIhl),
          (!verifies f 14 (4 * frameIhl f) 24, .dropIpCsum),
          (decide (byteAt f 23 ≠ 1 ∧ byteAt f 23 ≠ 17), .dropIpProto)] with
      | some code => s.Dropped t code
      | none => s.Entered t .ipProto

/-- 44_icmp R231, R232: the length check, then the type check; the code byte is not read. -/
def Obligations.IcmpStageChecks : Prop :=
  ∀ (s : State) (f : List Byte), 34 ≤ s.lat.frameLen.toNat →
    s.memRead .rx 0 s.lat.frameLen.toNat = .ok f →
    ∃ t, exec .icmp s = .next t ∧ t.acc = s.acc ∧
      match firstFailing
        [(decide (frameTotalLen f < 4 * frameIhl f + 8 ∨ s.lat.frameLen.toNat < 14 + frameTotalLen f),
            .dropIcmpLen),
          (decide (byteAt f (14 + 4 * frameIhl f) ≠ 8), .dropIcmpType)] with
      | some code => s.Dropped t code
      | none => s.Entered t .icmpType

/-- 44_icmp R233-R239: a wrong checksum drops the frame with nothing written; a right one turns it into the
echo reply in place, transmitted with the latched frame length. Bytes past the frame and all of TX are
unchanged. -/
def Obligations.EchoRequestAnswered : Prop :=
  ∀ (s : State) (f : List Byte), s.memRead .rx 0 s.lat.frameLen.toNat = .ok f →
    5 ≤ frameIhl f → 4 * frameIhl f + 8 ≤ frameTotalLen f →
    14 + frameTotalLen f ≤ s.lat.frameLen.toNat →
    ∃ t, exec .icmpEchoReq s = .next t ∧
      match verifies f (14 + 4 * frameIhl f) (frameTotalLen f - 4 * frameIhl f) (14 + 4 * frameIhl f + 2) with
      | false => s.Dropped t .dropIcmpCsum
      | true =>
        s.Transmitted t .icmpReplyTx s.lat.frameLen
          ∧ t.memRead .rx 0 s.lat.frameLen.toNat = .ok (echoReplyFrame f)
          ∧ (∀ o, s.lat.frameLen.toNat ≤ o → t.readByte .rx o = s.readByte .rx o)
          ∧ ∀ o, t.readByte .tx o = s.readByte .tx o

/-- 44_icmp R240 (c), §8 of the source: both checksums of an emitted reply verify. -/
def Obligations.EchoReplyVerifies : Prop :=
  ∀ f : List Byte, 5 ≤ frameIhl f → 4 * frameIhl f + 8 ≤ frameTotalLen f → 14 + frameTotalLen f ≤ f.length →
    (echoReplyFrame f).length = f.length ∧ frameIhl (echoReplyFrame f) = frameIhl f
      ∧ frameTotalLen (echoReplyFrame f) = frameTotalLen f
      ∧ verifies (echoReplyFrame f) 14 (4 * frameIhl f) 24 = true
      ∧ verifies (echoReplyFrame f) (framePayload f) (frameTotalLen f - 4 * frameIhl f)
          (framePayload f + 2) = true

/-- 44_icmp R240 (a): the regenerated IPv4 checksum equals the received one. -/
def Obligations.EchoReplyKeepsIpChecksum : Prop :=
  ∀ f : List Byte, 5 ≤ frameIhl f → 4 * frameIhl f + 8 ≤ frameTotalLen f → 14 + frameTotalLen f ≤ f.length →
    verifies f 14 (4 * frameIhl f) 24 = true → halfAt (echoReplyFrame f) 24 = halfAt f 24

/-- 44_icmp R240 (b): the reply's ICMP checksum c' from the request's valid checksum c. -/
def Obligations.EchoReplyIcmpChecksum : Prop :=
  ∀ f : List Byte, 5 ≤ frameIhl f → 4 * frameIhl f + 8 ≤ frameTotalLen f → 14 + frameTotalLen f ≤ f.length →
    byteAt f (framePayload f) = 8 →
    verifies f (framePayload f) (frameTotalLen f - 4 * frameIhl f) (framePayload f + 2) = true →
    let c := halfAt f (framePayload f + 2)
    let c' := halfAt (echoReplyFrame f) (framePayload f + 2)
    let allZero := ∀ w ∈ beWords (slice (setHalf (echoSwapped f) (framePayload f + 2) 0x0000)
      (framePayload f) (frameTotalLen f - 4 * frameIhl f)), w = 0x0000
    (c < 0xF7FF → c' = c + 0x0800) ∧ (0xF7FF < c → c' = c - 0xF7FF)
      ∧ (c = 0xF7FF → allZero → c' = 0xFFFF) ∧ (c = 0xF7FF → ¬allZero → c' = 0x0000)
      ∧ (¬(c = 0xF7FF ∧ ¬allZero) → c' = ocadd c 0x0800)

/-- 44_icmp R240 (d), 70_reset R297: what ICMP_ECHO_REQ leaves unchanged when it answers a next state. -/
def Obligations.EchoRequestFrame : Prop :=
  ∀ (s t : State) (ihl : Nat), s.ihl = .ok ihl → exec .icmpEchoReq s = .next t →
    (∀ o, ¬(o < 12 ∨ (24 ≤ o ∧ o < 34) ∨ o = payloadOff ihl ∨ o = payloadOff ihl + 2
        ∨ o = payloadOff ihl + 3) → t.readByte .rx o = s.readByte .rx o)
      ∧ (∀ o, t.readByte .tx o = s.readByte .tx o)
      ∧ { t.regs with txLen := s.regs.txLen } = s.regs
      ∧ t.status.errBusy = s.status.errBusy ∧ t.status.lastOp = s.status.lastOp
      ∧ t.ports.udpPending = s.ports.udpPending ∧ s.SameWorld t

/-- 42_arp R197, R199, 70_reset R297: what ARP_REQ leaves unchanged when it answers a next state. -/
def Obligations.ArpRequestFrame : Prop :=
  ∀ s t : State, exec .arpReq s = .next t →
    (∀ o, ¬(o < 12 ∨ (20 ≤ o ∧ o < 42)) → t.readByte .rx o = s.readByte .rx o)
      ∧ (∀ o, t.readByte .tx o = s.readByte .tx o)
      ∧ { t.regs with txLen := s.regs.txLen } = s.regs ∧ t.acc = s.acc
      ∧ t.status.errBusy = s.status.errBusy ∧ t.status.lastOp = s.status.lastOp
      ∧ t.ports.udpPending = s.ports.udpPending ∧ s.SameWorld t

/-- 45_udp R251, R252, 30_encoding R116: the length checks in order, with TX unchanged by a drop; then the
pseudo-header and the UDP header copy stand in TX bytes 0..19 and nothing else has changed. -/
def Obligations.UdpStageBuildsPseudoHeader : Prop :=
  ∀ (s : State) (f : List Byte), s.cfg.wf = true → 34 ≤ s.lat.frameLen.toNat →
    s.memRead .rx 0 s.lat.frameLen.toNat = .ok f →
    ∃ t, exec .udp s = .next t ∧ t.acc = s.acc ∧
      match firstFailing
        [(decide (frameTotalLen f < 4 * frameIhl f + 8 ∨ s.lat.frameLen.toNat < 14 + frameTotalLen f),
            .dropUdpLen),
          (decide ((frameUdpLen f).toNat < 8
            ∨ frameTotalLen f - 4 * frameIhl f < (frameUdpLen f).toNat), .dropUdpLen)] with
      | some code => s.Dropped t code
      | none =>
        t.phase = .busy .udpCsum ∧ t.status = s.status ∧ t.lat = s.lat ∧ t.regs = s.regs
          ∧ t.ports = s.ports ∧ s.SameWorld t
          ∧ t.memRead .tx 0 20 = .ok (slice f 26 4 ++ slice f 30 4 ++ [0x00, 17] ++ halfBytes (frameUdpLen f)
              ++ slice f (14 + 4 * frameIhl f) 4 ++ halfBytes (frameUdpLen f) ++ [0x00, 0x00])
          ∧ (∀ o, 20 ≤ o → t.readByte .tx o = s.readByte .tx o)
          ∧ ∀ o, t.readByte .rx o = s.readByte .rx o

/-- 45_udp R253, R255: a zero checksum field is handed off whatever the datagram's contents; no payload byte
and no byte of TX need be written, and no checksum is computed. -/
def Obligations.UdpZeroFieldHandsOff : Prop :=
  ∀ (s : State) (ihl : Nat) (len : Half), s.ihl = .ok ihl → s.udpLength (14 + 4 * ihl) = .ok len →
    ∃ t, exec .udpCsumNone s = .next t ∧ s.HandedOff t (BitVec.ofNat 16 (14 + 4 * ihl)) len
      ∧ t.acc = s.acc

/-- 45_udp R254, R255: a stored 0xFFFF passes exactly when the computed checksum C of the two regions is
0x0000; any other stored value passes exactly when it equals C; a mismatch is dropped. -/
def Obligations.UdpChecksumComparison : Prop :=
  ∀ (s : State) (ihl : Nat) (len : Half) (ph pay : List Byte), s.ihl = .ok ihl →
    s.udpLength (14 + 4 * ihl) = .ok len → s.memRead .tx 0 20 = .ok ph →
    s.memRead .rx (14 + 4 * ihl + 8) (len.toNat - 8) = .ok pay →
    let c := inet (beWords ph ++ beWords pay)
    (∃ t, exec .udpCsumFfff s = .next t
        ∧ (c = 0x0000 → s.HandedOff t (BitVec.ofNat 16 (14 + 4 * ihl)) len)
        ∧ (c ≠ 0x0000 → s.Dropped t .dropUdpCsum))
      ∧ ∀ stored : Half, ∃ t, exec (.udpCsum stored) s = .next t
        ∧ (c = stored → s.HandedOff t (BitVec.ofNat 16 (14 + 4 * ihl)) len)
        ∧ (c ≠ stored → s.Dropped t .dropUdpCsum)

/-- 45_udp R257: the computed UDP checksum of any frame is never 0xFFFF, so the remap accepts a stored
0xFFFF exactly when the computed value is 0x0000. -/
def Obligations.UdpComputedNeverFfff : Prop :=
  ∀ f : List Byte, udpComputed f ≠ 0xFFFF
    ∧ (udpComputed f = udpRemap 0xFFFF ↔ udpComputed f = 0x0000)
    ∧ ∀ stored : Half, stored ≠ 0xFFFF → (udpComputed f = udpRemap stored ↔ udpComputed f = stored)

/-! ### The host's registers and windows -/

/-- 41_dispatch R170, 10_state R37, R40, R56: a host write to CMD, at the level of a step. -/
def Obligations.CommandAcceptance : Prop :=
  ∀ (s : State) (w : Word) (rest : List EnvOp), s.env.script = .wr .cmd w :: rest →
    ∃ t, step s = .next t ∧ t.regs = s.regs ∧ t.ports = s.ports ∧ s.SameBytes t ∧ t.cfg = s.cfg
      ∧ t.env = { s.env with script := rest } ∧
      (s.phase.isBusy = true → t.phase = s.phase ∧ t.lat = s.lat
        ∧ t.status = { s.status with errBusy := true }) ∧
      (s.phase = .idle → w ∉ [(0x1 : Word), 0x2, 0x3] → t.phase = .idle
        ∧ t.status = { s.status with done := true, outcome := .errCmd, lastOp := w.setWidth 4 }) ∧
      (s.phase = .idle → w ∈ [(0x1 : Word), 0x2, 0x3] → t.phase = .busy .c
        ∧ t.status = { s.status with done := false, lastOp := w.setWidth 4 } ∧ t.lat.op = w.setWidth 4
        ∧ (w = 0x1 → t.lat.frameLen = s.regs.frameLen ∧ t.lat.devIp = s.regs.devIp)
        ∧ (w = 0x2 ∨ w = 0x3 → t.lat.a = s.regs.csA ∧ t.lat.b = s.regs.csB ∧ t.lat.odd = s.regs.csOdd))

/-- 10_state R35, R36: the fields of STATUS, and a host write to it. -/
def Obligations.StatusRegister : Prop :=
  (∀ s : State,
      (s.readReg .status).getLsbD 0 = s.phase.isBusy ∧ (s.readReg .status).getLsbD 1 = s.status.done
        ∧ (s.readReg .status).getLsbD 2 = s.status.errBusy
        ∧ (s.readReg .status).extractLsb' 3 5 = 0 ∧ (s.readReg .status).extractLsb' 8 8 = s.status.outcome.code
        ∧ (s.readReg .status).extractLsb' 16 4 = s.status.lastOp
        ∧ (s.readReg .status).extractLsb' 20 12 = 0)
    ∧ (∀ (s : State) (v : Word) (rest : List EnvOp), s.env.script = .wr .status v :: rest →
        step s = .next { s.withScript rest with
          status := { s.status with errBusy := s.status.errBusy && !v.getLsbD 2 } })
    ∧ ∀ p : Params, (State.resetWith p).readReg .status = 0x00000000

/-- 10_state R38: ERR_BUSY is set by a host write to CMD while BUSY (of a statement `WR` or at CMD's platform
address) and by nothing else, and only a host write of 1 to STATUS bit 2, or reset, clears it. -/
def Obligations.ErrBusyIsSticky : Prop :=
  (∀ (s : State) (op : EnvOp) (rest : List EnvOp) (w : Word), s.phase.isBusy = true →
      s.env.script = op :: rest →
      op = .wr .cmd w ∨ (∃ addr, op = .store addr .b32 w ∧ s.resolve addr .b32 = .ok (.reg .cmd)) →
      ∃ t, step s = .next t ∧ t.status.errBusy = true ∧ t.status.outcome = s.status.outcome
        ∧ t.status.lastOp = s.status.lastOp ∧ t.phase = s.phase)
    ∧ (∀ s t : State, step s = .next t → s.status.errBusy = true → t.status.errBusy = false →
        ∃ op rest, s.env.script = op :: rest ∧
          (op = .reset ∨ (∃ v, op = .wr .status v ∧ v.getLsbD 2 = true)
            ∨ ∃ addr v, op = .store addr .b32 v ∧ s.resolve addr .b32 = .ok (.reg .status)
                ∧ v.getLsbD 2 = true))
    ∧ (∀ s t : State, step s = .next t → s.status.errBusy = false → t.status.errBusy = true →
        s.phase.isBusy = true ∧ ∃ op rest, s.env.script = op :: rest ∧
          ((∃ w, op = .wr .cmd w)
            ∨ ∃ addr w, op = .store addr .b32 w ∧ s.resolve addr .b32 = .ok (.reg .cmd)))
    ∧ ∀ p : Params, (State.resetWith p).status.errBusy = false

/-- 10_state R41, R42, R44-R48: what an operand register reads after a host write in IDLE (its fields keep
the written bits and its reserved bits read 0), and that no other register or byte changes. -/
def Obligations.OperandRegistersReadBack : Prop :=
  ∀ (s : State) (r : Reg) (v mask : Word) (rest : List EnvOp), s.phase = .idle →
    s.env.script = .wr r v :: rest →
    (r, mask) ∈ [(Reg.frameLen, (0x0000FFFF : Word)), (.devIp, 0xFFFFFFFF), (.csAOff, 0x0001FFFF),
      (.csAWords, 0x0000FFFF), (.csBOff, 0x0001FFFF), (.csBWords, 0x0000FFFF), (.csOdd, 0x00000001)] →
    ∃ t, step s = .next t ∧ t.readReg r = v &&& mask ∧ (∀ r', r' ≠ r → t.readReg r' = s.readReg r')
      ∧ t.phase = .idle ∧ t.lat = s.lat ∧ t.acc = s.acc ∧ t.ports = s.ports ∧ s.SameBytes t ∧ t.cfg = s.cfg

/-- 10_state R43, R52, and log 12 for CS_RESULT, TX_INFO and UDP_INFO (the model's reading): a host write to a
read-only or reserved register changes nothing, in IDLE and in BUSY; to CS_RESULT, in IDLE (70_reset R295
forbids it in BUSY). -/
def Obligations.ReadOnlyWritesIgnored : Prop :=
  ∀ (s : State) (r : Reg) (v : Word) (rest : List EnvOp), s.env.script = .wr r v :: rest →
    r ∈ [Reg.devMacHi, .devMacLo, .csResult, .txInfo, .udpInfo, .reserved38, .reserved3C] →
    (r = .csResult → s.phase = .idle) →
    step s = .next (s.withScript rest)

/-- 10_state R43: DEV_MAC_HI and DEV_MAC_LO are views of DEVICE_MAC, and no step changes them. -/
def Obligations.DeviceMacFixed : Prop :=
  (∀ s : State,
      s.readReg .devMacHi = 0#16 ++ s.cfg.deviceMac.m0 ++ s.cfg.deviceMac.m1
        ∧ s.readReg .devMacLo =
          s.cfg.deviceMac.m2 ++ s.cfg.deviceMac.m3 ++ s.cfg.deviceMac.m4 ++ s.cfg.deviceMac.m5)
    ∧ (∀ (s : State) (r : Reg) (v : Word) (rest : List EnvOp), r = .devMacHi ∨ r = .devMacLo →
        s.env.script = .wr r v :: rest → step s = .next (s.withScript rest))
    ∧ ∀ s t : State, step s = .next t → t.cfg = s.cfg

/-- 70_reset R295, 10_state R53: what the model refuses while BUSY (FRAME_LEN, DEV_IP and every CS_* register,
CS_RESULT too), and that a register read while BUSY returns its current value. -/
def Obligations.ForbiddenAccessesWhileBusy : Prop :=
  ∀ (s : State) (op : EnvOp) (rest : List EnvOp), s.phase.isBusy = true → s.env.script = op :: rest →
    (∀ r v, r ∈ [Reg.frameLen, .devIp, .csAOff, .csAWords, .csBOff, .csBWords, .csOdd, .csResult] →
        op = .wr r v ∨ (∃ addr w, op = .store addr w v ∧ s.resolve addr w = .ok (.reg r)) →
        step s = .refused (.registerWriteWhileBusy r))
      ∧ (∀ b o bs, op = .wb b o bs → step s = .refused (.bufferAccessWhileBusy b))
      ∧ (∀ addr w v b o, op = .store addr w v → s.resolve addr w = .ok (.window b o) →
          step s = .refused (.bufferAccessWhileBusy b))
      ∧ (∀ addr w b o, op = .load addr w → s.resolve addr w = .ok (.window b o) →
          step s = .refused (.bufferAccessWhileBusy b))
      ∧ (∀ addr w r, op = .load addr w → s.resolve addr w = .ok (.reg r) →
          step s = .next ((s.withScript rest).logRead op (s.readReg r)))
      ∧ ∀ r, op = .rd r → step s = .next ((s.withScript rest).logRead op (s.readReg r))

/-- 20_memory R78: a host access inside the register block is refused unless it is 32 bits wide at a
multiple of 4; one that is reaches the register at that offset. -/
def Obligations.RegisterAccessShape : Prop :=
  ∀ (s : State) (addr : Nat) (w : Width), s.cfg.regBase ≤ addr → addr < s.cfg.regBase + 0x40 →
    (¬(w = .b32 ∧ (addr - s.cfg.regBase) % 4 = 0) →
      (∀ v, s.hostStore addr w v = .refused (.registerAccessShape addr))
        ∧ s.hostLoad addr w = .refused (.registerAccessShape addr))
      ∧ ((w = .b32 ∧ (addr - s.cfg.regBase) % 4 = 0) →
        ∃ r : Reg, r.offset = addr - s.cfg.regBase ∧ (∀ v, s.hostStore addr w v = s.writeReg r v)
          ∧ s.hostLoad addr w = .next (s.logRead (.load addr w) (s.readReg r)))

/-- 20_memory R71, R72: platform address RX_WIN_BASE + FRAME_BASE + o reaches RX offset o, and TX_WIN_BASE + o
reaches TX offset o, for every access that lies inside the window; said again of a step that stores or loads
one byte there. The windows do not overlap; which of two overlapping ones comes first is log 13. -/
def Obligations.WindowAddressesReachBuffers : Prop :=
  ∀ (s : State) (b : Buf) (off : Nat), WindowsApart s.cfg → off < s.size b →
    (∀ w : Width, w ≠ .b64 → off + w.bytes ≤ s.size b →
        s.resolve (windowStart s.cfg b + off) w = .ok (.window b off))
      ∧ (∀ (v : Word) (rest : List EnvOp), s.phase = .idle → (b = .rx → s.rxHeld = false) →
          s.env.script = .store (windowStart s.cfg b + off) .b8 v :: rest →
          ∃ t, step s = .next t ∧ t.readByte b off = .ok (v.setWidth 8)
            ∧ ∀ b' o, b' ≠ b ∨ o ≠ off → t.readByte b' o = s.readByte b' o)
      ∧ ∀ (x : Byte) (rest : List EnvOp), s.phase = .idle → s.readByte b off = .ok x →
          s.env.script = .load (windowStart s.cfg b + off) .b8 :: rest →
          step s = .next ((s.withScript rest).logRead (.load (windowStart s.cfg b + off) .b8) (x.setWidth 32))

/-- 20_memory R77, R80: a window write of 8, 16 or 32 bits in IDLE is split into bytes in HOST_ENDIAN order,
changes no other byte, and reads back as the bits written. R77 names HOST_ENDIAN without its values: that
they are little and big, and what each means, is log 14. Which address reaches which offset is
WindowAddressesReachBuffers. -/
def Obligations.WindowAccessSplit : Prop :=
  ∀ (s : State) (addr off : Nat) (w : Width) (v : Word) (b : Buf), s.phase = .idle →
    (b = .rx → s.rxHeld = false) → s.resolve addr w = .ok (.window b off) →
    ∃ t, s.hostStore addr w v = .next t
      ∧ (∀ k, k < w.bytes → t.readByte b (off + k) = .ok (match s.cfg.hostEndian with
          | .little => v.extractLsb' (8 * k) 8
          | .big => v.extractLsb' (8 * (w.bytes - 1 - k)) 8))
      ∧ (∀ b' o, b' ≠ b ∨ o < off ∨ off + w.bytes ≤ o → t.readByte b' o = s.readByte b' o)
      ∧ t.regs = s.regs ∧ t.status = s.status ∧ t.phase = .idle ∧ t.ports = s.ports
      ∧ t.hostLoad addr w =
          .next (t.logRead (.load addr w) ((v.setWidth (8 * w.bytes)).setWidth 32))

/-- 20_memory R80: a `WB` outside the buffer is refused, and one inside stores its bytes; a platform access that
starts in a window and reaches past its end, or is wider than 32 bits, is refused, in IDLE and in BUSY; and
so is an address in no window (log 13: R70 and R83 give the core no other address). -/
def Obligations.OutsideWindowRefused : Prop :=
  (∀ (s : State) (b : Buf) (off : Nat) (bs : List Byte) (rest : List EnvOp), s.phase = .idle →
      s.env.script = .wb b off bs :: rest →
      (s.size b < off + bs.length → step s = .refused (.windowAccessOutside b off))
        ∧ (off + bs.length ≤ s.size b → (b = .rx → s.rxHeld = false) →
            ∃ t, step s = .next t ∧ t.memRead b off bs.length = .ok bs
              ∧ (∀ b' o, b' ≠ b ∨ o < off ∨ off + bs.length ≤ o → t.readByte b' o = s.readByte b' o)
              ∧ t.regs = s.regs ∧ t.status = s.status ∧ t.phase = s.phase ∧ t.ports = s.ports
              ∧ t.env = { s.env with script := rest }))
    ∧ ∀ (s : State) (op : EnvOp) (addr : Nat) (w : Width) (rest : List EnvOp),
      ((∃ v, op = .store addr w v) ∨ op = .load addr w) → s.env.script = op :: rest →
      (∀ b off, WindowsApart s.cfg → off < s.size b → addr = windowStart s.cfg b + off →
          (w ≠ .b64 → s.size b < off + w.bytes → step s = .refused (.windowAccessOutside b off))
            ∧ (w = .b64 → step s = .refused (.windowAccessWidth addr)))
        ∧ (Apart s.cfg.regBase 0x40 addr 1 → (∀ b, Apart (windowStart s.cfg b) (s.size b) addr 1) →
            step s = .refused (.unmappedHostAddress addr))

/-- 70_reset R296 with 93_implementation_defined U7 and log 11: while a transmitted or handed-off frame has
not been taken, a host write to RX, by `WB` or at a window address, is refused; the adapter's take reads RX bytes 0 .. len-1 and the
UDP consumer's the datagram, and each ends its hold. -/
def Obligations.RxHeldUntilTaken : Prop :=
  (∀ (s : State) (op : EnvOp) (rest : List EnvOp), s.phase = .idle → s.rxHeld = true →
      s.env.script = op :: rest →
      (∃ off bs, op = .wb .rx off bs ∧ off + bs.length ≤ s.cfg.rxBufBytes)
        ∨ (∃ addr w v off, op = .store addr w v ∧ s.resolve addr w = .ok (.window .rx off)) →
      step s = .refused .rxNotConsumed)
    ∧ (∀ s : State, s.rxHeld = true ↔ s.ports.txPending ≠ none ∨ s.ports.udpPending ≠ none)
    ∧ (∀ (s : State) (len : Half) (f : List Byte) (rest : List EnvOp), s.phase = .idle →
        s.env.script = .adapterTake :: rest → s.ports.txPending = some len →
        s.memRead .rx 0 len.toNat = .ok f →
        ∃ t, step s = .next t ∧ t.ports = { s.ports with txPending := none }
          ∧ t.env = { s.env with script := rest, sent := s.env.sent ++ [f] } ∧ t.regs = s.regs
          ∧ t.status = s.status ∧ s.SameBytes t)
    ∧ ∀ (s : State) (off len : Half) (d : List Byte) (rest : List EnvOp), s.phase = .idle →
        s.env.script = .udpTake :: rest → s.ports.udpPending = some (off, len) →
        s.memRead .rx off.toNat len.toNat = .ok d →
        ∃ t, step s = .next t ∧ t.ports = { s.ports with udpPending := none }
          ∧ t.env = { s.env with script := rest, delivered := s.env.delivered ++ [d] }
          ∧ t.regs = s.regs ∧ t.status = s.status ∧ s.SameBytes t

/-- 20_memory R82: no read has a side effect; and what a read records: the register's value (10_state R33), or
the bytes of the window in HOST_ENDIAN order (20_memory R77; the two orders are log 14) and 0 above them. -/
def Obligations.ReadsHaveNoSideEffect : Prop :=
  (∀ (s t : State) (op : EnvOp) (rest : List EnvOp), s.env.script = op :: rest →
      ((∃ r, op = .rd r) ∨ (∃ addr w, op = .load addr w) ∨ (op = .poll ∧ s.phase = .idle)) →
      step s = .next t → ∃ v, t = (s.withScript rest).logRead op v)
    ∧ ∀ (s : State) (op : EnvOp) (rest : List EnvOp), s.env.script = op :: rest →
      (∀ r, op = .rd r ∨ (∃ addr w, op = .load addr w ∧ s.resolve addr w = .ok (.reg r)) →
          step s = .next ((s.withScript rest).logRead op (s.readReg r)))
        ∧ ∀ addr w b off bs, s.phase = .idle → op = .load addr w → s.resolve addr w = .ok (.window b off) →
          s.memRead b off w.bytes = .ok bs →
          ∃ v : Word, step s = .next ((s.withScript rest).logRead op v)
            ∧ ∀ k, k < 4 → v.extractLsb' (8 * k) 8 =
              if k < w.bytes then
                match s.cfg.hostEndian with
                | .little => byteAt bs k
                | .big => byteAt bs (w.bytes - 1 - k)
              else 0x00

/-- 30_encoding R131, 70_reset R301: POLL reads STATUS until BUSY = 0, and then is done. That while BUSY the
engine makes one step and POLL keeps its place, and that only the last read is recorded, is the model's
choice, log 7. -/
def Obligations.PollWaitsForIdle : Prop :=
  ∀ (s : State) (rest : List EnvOp), s.env.script = .poll :: rest →
    (s.phase.isBusy = true → step s = s.engineStep)
      ∧ (s.phase = .idle → step s = .next ((s.withScript rest).logRead .poll (s.readReg .status)))

/-- 70_reset R290, R291, 10_state R60: reset at any time, BUSY or IDLE. The readings of ACC and the latches
are no part of it: the host cannot see them. -/
def Obligations.ResetAtAnyTime : Prop :=
  (∀ p : Params, (State.resetWith p).phase = .idle ∧ (State.resetWith p).cfg = p
      ∧ (∀ r, r ≠ .devMacHi → r ≠ .devMacLo → (State.resetWith p).readReg r = 0x00000000)
      ∧ (∀ b o, o < (State.resetWith p).size b →
          (State.resetWith p).readByte b o = .error (.unwrittenByte b o))
      ∧ (State.resetWith p).ports = ⟨none, none, []⟩)
    ∧ ∀ (s : State) (rest : List EnvOp), s.env.script = .reset :: rest →
      ∃ t, step s = .next t ∧ t.phase = .idle ∧ t.cfg = s.cfg
        ∧ (∀ r, t.readReg r = (State.resetWith s.cfg).readReg r)
        ∧ (∀ b o, t.readByte b o = (State.resetWith s.cfg).readByte b o)
        ∧ t.ports = ⟨none, none, s.ports.events⟩ ∧ t.env = { s.env with script := rest }

/-! ### The machine as a whole -/

/-- A step runs the decoded instruction. The choice of what a step is is the model's: one row of the table per
engine step (log 6), and the engine moves while BUSY on an empty script, on a POLL at its head, which is
then exec at the very state, and on a `wait`, which is then exec at the state without it (log 7). From the
spec: a word that is no row ends the command (30_encoding R118), and in IDLE with nothing to do nothing
happens (60_exceptions R286). -/
def Obligations.StepRunsDecodedInstruction : Prop :=
  ∀ (s : State) (f : Format) (raw : Raw) (rest : List EnvOp), s.phase = .busy f → s.fetch f = .ok raw →
    (∀ i, decode raw = .instr i → s.env.script = [] ∨ s.env.script = .poll :: rest →
        step s = exec i s)
      ∧ (∀ i, decode raw = .instr i → s.env.script = .wait :: rest → step s = exec i (s.withScript rest))
      ∧ (∀ r, decode raw = .reject r → s.env.script = [] → step s = .next (s.finish (rejectOutcome r)))
      ∧ ∀ u : State, u.phase = .idle → u.env.script = [] → step u = .next u

/-- The invariant holds after reset, for every well-formed choice of the parameters. -/
def Obligations.InvariantAtReset : Prop :=
  State.reset.Inv ∧ ∀ p : Params, p.wf = true → (State.resetWith p).Inv

/-- Every step keeps the invariant: the buffers stay canonical and inside their size, DONE, OUTCOME and PHASE
agree, a running command is a legal one whose earlier checks still hold of the frame, and a pending
event is the one its information register records. -/
def Obligations.StepKeepsInvariant : Prop := ∀ s t : State, s.Inv → step s = .next t → t.Inv

/-- 20_memory R85: under the invariant no step addresses a byte outside a buffer, and while a PROC runs an
engine step that meets an unwritten byte of RX meets it below the latched FRAME_LEN. -/
def Obligations.NoAccessOutsideBuffers : Prop :=
  (∀ (s : State) (b : Buf) (o : Nat), s.Inv → step s ≠ .fault (.outsideBuffer b o))
    ∧ ∀ (s : State) (b : Buf) (o : Nat), s.Inv → s.lat.op = 0x1 → s.phase.isBusy = true →
        s.engineStep = .fault (.unwrittenByte b o) → b = .rx ∧ o < s.lat.frameLen.toNat

/-- 41_dispatch R171, 70_reset R293, R301: from any BUSY state of the invariant whose latched operands' bytes
are written, the command finishes, if the outside world stands still. That four engine steps are enough is
the model's own count, one step per row of the table (log 6); the spec says only that it is finite. -/
def Obligations.EveryCommandFinishes : Prop :=
  ∀ s : State, s.Inv → s.phase.isBusy = true → s.operandsWritten → s.env.script = [] →
    ∃ t, runFor 4 s = .next t ∧ t.phase = .idle ∧ t.status.done = true ∧ t.status.outcome ≠ .none
      ∧ t.Inv

/-- 41_dispatch R171: BUSY ends by a finish or by reset only; DONE is set by a finish and cleared by acceptance
or reset (10_state R37), and OUTCOME is written by a finish or reset only (R39). -/
def Obligations.BusyEndsByFinishOrReset : Prop :=
  ∀ s t : State, step s = .next t →
    (s.phase.isBusy = true → t.phase = .idle →
        (t.status.done = true ∧ t.status.outcome ≠ .none) ∨ ∃ rest, s.env.script = .reset :: rest)
      ∧ (s.status.done = false → t.status.done = true → t.phase = .idle)
      ∧ (s.status.done = true → t.status.done = false →
          (s.phase = .idle ∧ t.phase = .busy .c) ∨ ∃ rest, s.env.script = .reset :: rest)
      ∧ (t.status.outcome ≠ s.status.outcome →
          (t.phase = .idle ∧ t.status.done = true) ∨ ∃ rest, s.env.script = .reset :: rest)

/-- 41_dispatch R177 (c), 70_reset R297, R298, 60_exceptions R281: what every instruction leaves unchanged.
Only CSUM and CSUM2 write CS_RESULT, only ARP_REQ and ICMP_ECHO_REQ write RX, and only UDP writes TX, its
bytes 0..19. -/
def Obligations.EveryInstructionFrame : Prop :=
  ∀ (i : Instr) (s t : State), exec i s = .next t →
    t.regs.frameLen = s.regs.frameLen ∧ t.regs.devIp = s.regs.devIp ∧ t.regs.csA = s.regs.csA
      ∧ t.regs.csB = s.regs.csB ∧ t.regs.csOdd = s.regs.csOdd
      ∧ (t.regs.csResult = s.regs.csResult
          ∨ ((i = .csum ∨ i = .csum2) ∧ t.status.outcome = .csumOk))
      ∧ (t.regs.txLen = s.regs.txLen ∨ i = .arpReq ∨ i = .icmpEchoReq)
      ∧ ((t.regs.udpOff = s.regs.udpOff ∧ t.regs.udpLen = s.regs.udpLen) ∨ i.format = .udpCsum)
      ∧ t.status.errBusy = s.status.errBusy ∧ t.status.lastOp = s.status.lastOp
      ∧ (t.phase.isBusy = true → t.status = s.status ∧ t.lat = s.lat)
      ∧ ((∀ o, t.readByte .rx o = s.readByte .rx o) ∨ i = .arpReq ∨ i = .icmpEchoReq)
      ∧ (∀ o, (i = .udp → 20 ≤ o) → t.readByte .tx o = s.readByte .tx o)
      ∧ (i ∈ [.proc, .arpReq, .icmp, .udp, .udpCsumNone] → t.acc = s.acc)
      ∧ s.SameWorld t

/-- 30_encoding R120, 41_dispatch R177 (d): which codes are in which class; and the class of a finished
command's outcome says which event it emitted: a reply one transmit, the hand-off one udp_accept, every
other outcome none; a command that goes on has emitted none. A drop or an error leaves RX unchanged. -/
def Obligations.OutcomeClassTellsEvents : Prop :=
  (∀ o : OutcomeCode,
      match o.classOf with
      | .noCommand => o.code = 0x00
      | .csumSuccess => o.code = 0x01
      | .commandError => o.code ∈ [(0x02 : Byte), 0x03]
      | .reply => o.code ∈ [(0x20 : Byte), 0x40]
      | .handoff => o.code = 0x50
      | .drop => o.code ∈ [(0x10 : Byte), 0x11, 0x12, 0x13, 0x21, 0x22, 0x23, 0x24, 0x25, 0x26, 0x30, 0x31, 0x32,
          0x33, 0x34, 0x41, 0x42, 0x43, 0x51, 0x52])
    ∧ (∀ o o' : OutcomeCode, o.code = o'.code → o = o')
    ∧ ∀ (i : Instr) (s t : State), exec i s = .next t →
      (t.phase.isBusy = true → t.ports = s.ports)
        ∧ (t.phase = .idle →
          match t.status.outcome.classOf with
          | .reply => ∃ len, t.ports.events = s.ports.events ++ [.transmit .rx len] ∧ t.regs.txLen = len
          | .handoff => t.ports.events =
              s.ports.events ++ [.udpAccept t.regs.udpOff t.regs.udpLen]
          | .drop => t.ports = s.ports ∧ t.regs = s.regs ∧ ∀ o, t.readByte .rx o = s.readByte .rx o
          | .commandError => t.ports = s.ports ∧ t.regs = s.regs ∧ ∀ o, t.readByte .rx o = s.readByte .rx o
          | .csumSuccess => t.ports = s.ports ∧ ∀ o, t.readByte .rx o = s.readByte .rx o
          | .noCommand => False)

/-- The state with other values in the operand registers of 10_state R56. -/
def withOperandRegs (s : State) (g : Regs) : State :=
  { s with regs := { s.regs with
      frameLen := g.frameLen, devIp := g.devIp, csA := g.csA, csB := g.csB, csOdd := g.csOdd } }

/-- The answer of a step with its next state changed by `h`. -/
def mapNext (h : State → State) : Result → Result
  | .next t => .next (h t)
  | .fault f => .fault f
  | .refused r => .refused r

/-- 10_state R56, R53: a running command reads only the latches: other values in the operand registers change
nothing it does. -/
def Obligations.OperandRegistersNotReadWhileRunning : Prop :=
  ∀ (i : Instr) (s : State) (g : Regs),
    exec i (withOperandRegs s g) = mapNext (fun t => withOperandRegs t g) (exec i s)

/-- A whole PROC is one function of the frame: from a latched PROC, the run of engine steps ends with the
outcome, the frame, the TX bytes and the event of `procVerdict`, the spec's PROC written over byte lists
(41_dispatch R173, 42_arp R190, 43_ipv4 R210, 44_icmp R230, 45_udp R250). That the run is at most four engine
steps is the model's choice, one step per row of the table (log 6). -/
def Obligations.ProcRunIsVerdict : Prop :=
  ∀ (s : State) (f : List Byte), s.cfg.wf = true → s.phase = .busy .c → s.lat.op = 0x1 →
    s.env.script = [] → f.length = s.lat.frameLen.toNat →
    (14 ≤ f.length → f.length ≤ s.cfg.rxBufBytes → s.memRead .rx 0 f.length = .ok f) →
    let v := procVerdict s.cfg.deviceMac.bytes s.cfg.rxBufBytes s.lat.devIp f
    ∃ t, runFor 4 s = .next t ∧ s.Ended t v.code ∧ s.SameWorld t
      ∧ (v.frame = f → ∀ o, t.readByte .rx o = s.readByte .rx o)
      ∧ (v.frame ≠ f → t.memRead .rx 0 f.length = .ok v.frame)
      ∧ (∀ o, f.length ≤ o → t.readByte .rx o = s.readByte .rx o)
      ∧ (match v.tx with
        | none => ∀ o, t.readByte .tx o = s.readByte .tx o
        | some ph => t.memRead .tx 0 20 = .ok ph ∧ ∀ o, 20 ≤ o → t.readByte .tx o = s.readByte .tx o)
      ∧ (match v.event with
        | none => t.regs = s.regs ∧ t.ports = s.ports
        | some (.transmit b len) => t.regs = { s.regs with txLen := len }
            ∧ t.ports = { s.ports with
                txPending := some len, events := s.ports.events ++ [.transmit b len] }
        | some (.udpAccept off len) => t.regs = { s.regs with udpOff := off, udpLen := len }
            ∧ t.ports = { s.ports with
                udpPending := some (off, len), events := s.ports.events ++ [.udpAccept off len] })
end

