-- ==== Sys2Proof/Laws/Memory.lean ====
section
/-! SUPPORT. The laws of a buffer's cell list: a read after a write, other offsets, the canonical form. -/

namespace Sys2Proof.Machine

@[simp] theorem Memory.get?_nil (a : Nat) : Memory.get? [] a = none := rfl

theorem Memory.get?_put (m : Memory) (a : Nat) (v : Byte) (a' : Nat) :
    (m.put a v).get? a' = if a' = a then some v else m.get? a' := by
  induction m with
  | nil => simp [Memory.put, Memory.get?, eq_comm]
  | cons c m ih =>
    simp only [Memory.put]
    split
    · by_cases h : a' = a
      · simp [Memory.get?, h]
      · simp [Memory.get?, h, Ne.symm h]
    · split
      · next h2 =>
        by_cases h : a' = a
        · simp [Memory.get?, h]
        · simp [Memory.get?, h, ← h2, Ne.symm h]
      · next h2 =>
        by_cases h : a' = a
        · subst h; simp [Memory.get?, ih, Ne.symm h2]
        · simp [Memory.get?, ih, h]

@[simp] theorem Memory.get?_put_same (m : Memory) (a : Nat) (v : Byte) : (m.put a v).get? a = some v := by
  simp [Memory.get?_put]

theorem Memory.get?_put_ne (m : Memory) {a a' : Nat} (v : Byte) (h : a' ≠ a) :
    (m.put a v).get? a' = m.get? a' := by
  simp [Memory.get?_put, h]

/-- A byte list written at `o` is what its offsets then hold; every other offset holds what it held. -/
theorem Memory.get?_putBytes (m : Memory) (o : Nat) (bs : List Byte) (a : Nat) :
    (m.putBytes o bs).get? a = if o ≤ a ∧ a < o + bs.length then bs[a - o]? else m.get? a := by
  induction bs generalizing m o with
  | nil =>
    simp [Memory.putBytes]
  | cons b bs ih =>
    simp only [Memory.putBytes, ih, Memory.get?_put, List.length_cons]
    by_cases h1 : o + 1 ≤ a ∧ a < o + 1 + bs.length
    · have h2 : o ≤ a ∧ a < o + (bs.length + 1) := by omega
      have h3 : a - o = (a - (o + 1)) + 1 := by omega
      simp [h1, h2, h3]
    · by_cases h4 : a = o
      · subst h4; simp
      · have h5 : ¬(o ≤ a ∧ a < o + (bs.length + 1)) := by omega
        rw [if_neg h1, if_neg h4, if_neg h5]

theorem Memory.get?_putBytes_outside (m : Memory) {o : Nat} {bs : List Byte} {a : Nat}
    (h : a < o ∨ o + bs.length ≤ a) : (m.putBytes o bs).get? a = m.get? a := by
  have h' : ¬(o ≤ a ∧ a < o + bs.length) := by omega
  simp [Memory.get?_putBytes, h']

theorem Memory.mem_put {m : Memory} {a : Nat} {v : Byte} {c : Host.Cell} (h : c ∈ m.put a v) :
    c = (a, v) ∨ c ∈ m := by
  induction m with
  | nil => simpa [Memory.put] using h
  | cons d m ih =>
    simp only [Memory.put] at h
    split_ifs at h with h1 h2
    · simpa using h
    · rcases List.mem_cons.1 h with h | h
      · exact .inl h
      · exact .inr (List.mem_cons_of_mem _ h)
    · rcases List.mem_cons.1 h with h | h
      · exact .inr (h ▸ List.mem_cons_self)
      · exact (ih h).imp_right (List.mem_cons_of_mem _)

/-- A write keeps the canonical form. -/
theorem Memory.put_wf {m : Memory} (h : m.wf) (a : Nat) (v : Byte) : (m.put a v).wf := by
  induction m with
  | nil => simp [Memory.put, Memory.wf]
  | cons c m ih =>
    obtain ⟨hc, hm⟩ := List.pairwise_cons.1 h
    simp only [Memory.put]
    split_ifs with h1 h2
    · refine List.pairwise_cons.2 ⟨fun d hd => ?_, h⟩
      rcases List.mem_cons.1 hd with rfl | hd
      · exact h1
      · exact h1.trans (hc d hd)
    · exact List.pairwise_cons.2 ⟨fun d hd => h2 ▸ hc d hd, hm⟩
    · refine List.pairwise_cons.2 ⟨fun d hd => ?_, ih hm⟩
      rcases Memory.mem_put hd with rfl | hd
      · simp only; omega
      · exact hc d hd

/-- A write of several bytes keeps the canonical form. -/
theorem Memory.putBytes_wf {m : Memory} (h : m.wf) (o : Nat) (bs : List Byte) : (m.putBytes o bs).wf := by
  induction bs generalizing m o with
  | nil => exact h
  | cons b bs ih => exact ih (Memory.put_wf h o b) _

/-- Every cell of a written buffer was there or is one of the bytes written. -/
theorem Memory.mem_putBytes {m : Memory} {o : Nat} {bs : List Byte} {c : Host.Cell}
    (h : c ∈ m.putBytes o bs) : (o ≤ c.1 ∧ c.1 < o + bs.length) ∨ c ∈ m := by
  induction bs generalizing m o with
  | nil => exact .inr h
  | cons b bs ih =>
    rcases ih h with ⟨h1, h2⟩ | h'
    · exact .inl ⟨by omega, by simp only [List.length_cons]; omega⟩
    · rcases Memory.mem_put h' with rfl | h''
      · exact .inl ⟨by simp, by simp⟩
      · exact .inr h''

end Sys2Proof.Machine
end

