-- ==== Sys2Proof/Laws/Settle.lean ====
section
/-! SUPPORT. How a chain of buffer operations answers. -/

namespace Sys2Proof.Machine

@[simp] theorem ok_bind {ε α β : Type} (a : α) (f : α → Except ε β) : (Except.ok a >>= f) = f a := rfl

@[simp] theorem error_bind {ε α β : Type} (e : ε) (f : α → Except ε β) :
    ((Except.error e : Except ε α) >>= f) = Except.error e := rfl

/-- A chain answers only if its first link does. -/
theorem bind_eq_ok {ε α β : Type} {x : Except ε α} {f : α → Except ε β} {b : β} :
    (x >>= f) = .ok b ↔ ∃ a, x = .ok a ∧ f a = .ok b := by
  cases x <;> simp

/-- A chain fails at its first failing link. -/
theorem bind_eq_error {ε α β : Type} {x : Except ε α} {f : α → Except ε β} {e : ε} :
    (x >>= f) = .error e ↔ x = .error e ∨ ∃ a, x = .ok a ∧ f a = .error e := by
  cases x <;> simp

@[simp] theorem settle_ok (s : State) : settle (.ok s) = .next s := rfl

@[simp] theorem settle_error (f : Fault) : settle (.error f) = .fault f := rfl

@[simp] theorem settle_eq_next {x : Except Fault State} {t : State} : settle x = .next t ↔ x = .ok t := by
  cases x <;> simp [settle]

@[simp] theorem settle_eq_fault {x : Except Fault State} {f : Fault} :
    settle x = .fault f ↔ x = .error f := by
  cases x <;> simp [settle]

/-- No meaning of an instruction is a refusal. -/
@[simp] theorem settle_ne_refused {x : Except Fault State} {r : Refusal} : settle x ≠ .refused r := by
  cases x <;> simp [settle]

end Sys2Proof.Machine
end

