-- ==== Sys2Proof/Laws/State.lean ====
section
/-! SUPPORT. One lemma per field per update of a state, each true by unfolding the update once, so that
no later proof unfolds a record update. -/

namespace Sys2Proof.Machine

/-! ### `State.finish` -/

@[simp] theorem State.finish_cfg (s : State) (code : OutcomeCode) : (s.finish code).cfg = s.cfg := rfl

@[simp] theorem State.finish_phase (s : State) (code : OutcomeCode) : (s.finish code).phase = .idle := rfl

@[simp] theorem State.finish_status (s : State) (code : OutcomeCode) : (s.finish code).status = s.status.finish code := rfl

@[simp] theorem State.finish_regs (s : State) (code : OutcomeCode) : (s.finish code).regs = s.regs := rfl

@[simp] theorem State.finish_acc (s : State) (code : OutcomeCode) : (s.finish code).acc = s.acc := rfl

@[simp] theorem State.finish_lat (s : State) (code : OutcomeCode) : (s.finish code).lat = Config.freeLatches s.freeCount := rfl

@[simp] theorem State.finish_rx (s : State) (code : OutcomeCode) : (s.finish code).rx = s.rx := rfl

@[simp] theorem State.finish_tx (s : State) (code : OutcomeCode) : (s.finish code).tx = s.tx := rfl

@[simp] theorem State.finish_ports (s : State) (code : OutcomeCode) : (s.finish code).ports = s.ports := rfl

@[simp] theorem State.finish_env (s : State) (code : OutcomeCode) : (s.finish code).env = s.env := rfl

@[simp] theorem State.finish_freeCount (s : State) (code : OutcomeCode) : (s.finish code).freeCount = s.freeCount + 1 := rfl

/-! ### `State.enter` -/

@[simp] theorem State.enter_cfg (s : State) (f : Format) : (s.enter f).cfg = s.cfg := rfl

@[simp] theorem State.enter_phase (s : State) (f : Format) : (s.enter f).phase = .busy f := rfl

@[simp] theorem State.enter_status (s : State) (f : Format) : (s.enter f).status = s.status := rfl

@[simp] theorem State.enter_regs (s : State) (f : Format) : (s.enter f).regs = s.regs := rfl

@[simp] theorem State.enter_acc (s : State) (f : Format) : (s.enter f).acc = s.acc := rfl

@[simp] theorem State.enter_lat (s : State) (f : Format) : (s.enter f).lat = s.lat := rfl

@[simp] theorem State.enter_rx (s : State) (f : Format) : (s.enter f).rx = s.rx := rfl

@[simp] theorem State.enter_tx (s : State) (f : Format) : (s.enter f).tx = s.tx := rfl

@[simp] theorem State.enter_ports (s : State) (f : Format) : (s.enter f).ports = s.ports := rfl

@[simp] theorem State.enter_env (s : State) (f : Format) : (s.enter f).env = s.env := rfl

@[simp] theorem State.enter_freeCount (s : State) (f : Format) : (s.enter f).freeCount = s.freeCount := rfl

/-! ### `State.accept` -/

@[simp] theorem State.accept_cfg (s : State) (w : Word) : (s.accept w).cfg = s.cfg := rfl

@[simp] theorem State.accept_phase (s : State) (w : Word) : (s.accept w).phase = .busy .c := rfl

@[simp] theorem State.accept_status (s : State) (w : Word) : (s.accept w).status = s.status.accept (w.setWidth 4) := rfl

@[simp] theorem State.accept_regs (s : State) (w : Word) : (s.accept w).regs = s.regs := rfl

@[simp] theorem State.accept_acc (s : State) (w : Word) : (s.accept w).acc = s.acc := rfl

@[simp] theorem State.accept_lat (s : State) (w : Word) :
    (s.accept w).lat = latchOperands s.regs s.lat (w.setWidth 4) := rfl

@[simp] theorem State.accept_rx (s : State) (w : Word) : (s.accept w).rx = s.rx := rfl

@[simp] theorem State.accept_tx (s : State) (w : Word) : (s.accept w).tx = s.tx := rfl

@[simp] theorem State.accept_ports (s : State) (w : Word) : (s.accept w).ports = s.ports := rfl

@[simp] theorem State.accept_env (s : State) (w : Word) : (s.accept w).env = s.env := rfl

@[simp] theorem State.accept_freeCount (s : State) (w : Word) : (s.accept w).freeCount = s.freeCount := rfl

/-! ### `State.setResult` -/

@[simp] theorem State.setResult_cfg (s : State) (r : Half) : (s.setResult r).cfg = s.cfg := rfl

@[simp] theorem State.setResult_phase (s : State) (r : Half) : (s.setResult r).phase = s.phase := rfl

@[simp] theorem State.setResult_status (s : State) (r : Half) : (s.setResult r).status = s.status := rfl

@[simp] theorem State.setResult_regs (s : State) (r : Half) : (s.setResult r).regs = { s.regs with csResult := r } := rfl

@[simp] theorem State.setResult_acc (s : State) (r : Half) : (s.setResult r).acc = s.acc := rfl

@[simp] theorem State.setResult_lat (s : State) (r : Half) : (s.setResult r).lat = s.lat := rfl

@[simp] theorem State.setResult_rx (s : State) (r : Half) : (s.setResult r).rx = s.rx := rfl

@[simp] theorem State.setResult_tx (s : State) (r : Half) : (s.setResult r).tx = s.tx := rfl

@[simp] theorem State.setResult_ports (s : State) (r : Half) : (s.setResult r).ports = s.ports := rfl

@[simp] theorem State.setResult_env (s : State) (r : Half) : (s.setResult r).env = s.env := rfl

@[simp] theorem State.setResult_freeCount (s : State) (r : Half) : (s.setResult r).freeCount = s.freeCount := rfl

/-! ### `State.emitTransmit` -/

@[simp] theorem State.emitTransmit_cfg (s : State) (len : Half) : (s.emitTransmit len).cfg = s.cfg := rfl

@[simp] theorem State.emitTransmit_phase (s : State) (len : Half) : (s.emitTransmit len).phase = s.phase := rfl

@[simp] theorem State.emitTransmit_status (s : State) (len : Half) : (s.emitTransmit len).status = s.status := rfl

@[simp] theorem State.emitTransmit_regs (s : State) (len : Half) : (s.emitTransmit len).regs = { s.regs with txLen := len } := rfl

@[simp] theorem State.emitTransmit_acc (s : State) (len : Half) : (s.emitTransmit len).acc = s.acc := rfl

@[simp] theorem State.emitTransmit_lat (s : State) (len : Half) : (s.emitTransmit len).lat = s.lat := rfl

@[simp] theorem State.emitTransmit_rx (s : State) (len : Half) : (s.emitTransmit len).rx = s.rx := rfl

@[simp] theorem State.emitTransmit_tx (s : State) (len : Half) : (s.emitTransmit len).tx = s.tx := rfl

@[simp] theorem State.emitTransmit_ports (s : State) (len : Half) :
    (s.emitTransmit len).ports = { s.ports with txPending := some len, events := s.ports.events ++ [.transmit .rx len] } := rfl

@[simp] theorem State.emitTransmit_env (s : State) (len : Half) : (s.emitTransmit len).env = s.env := rfl

@[simp] theorem State.emitTransmit_freeCount (s : State) (len : Half) : (s.emitTransmit len).freeCount = s.freeCount := rfl

/-! ### `State.emitUdpAccept` -/

@[simp] theorem State.emitUdpAccept_cfg (s : State) (off len : Half) : (s.emitUdpAccept off len).cfg = s.cfg := rfl

@[simp] theorem State.emitUdpAccept_phase (s : State) (off len : Half) : (s.emitUdpAccept off len).phase = s.phase := rfl

@[simp] theorem State.emitUdpAccept_status (s : State) (off len : Half) : (s.emitUdpAccept off len).status = s.status := rfl

@[simp] theorem State.emitUdpAccept_regs (s : State) (off len : Half) :
    (s.emitUdpAccept off len).regs = { s.regs with udpOff := off, udpLen := len } := rfl

@[simp] theorem State.emitUdpAccept_acc (s : State) (off len : Half) : (s.emitUdpAccept off len).acc = s.acc := rfl

@[simp] theorem State.emitUdpAccept_lat (s : State) (off len : Half) : (s.emitUdpAccept off len).lat = s.lat := rfl

@[simp] theorem State.emitUdpAccept_rx (s : State) (off len : Half) : (s.emitUdpAccept off len).rx = s.rx := rfl

@[simp] theorem State.emitUdpAccept_tx (s : State) (off len : Half) : (s.emitUdpAccept off len).tx = s.tx := rfl

@[simp] theorem State.emitUdpAccept_ports (s : State) (off len : Half) :
    (s.emitUdpAccept off len).ports = { s.ports with udpPending := some (off, len), events := s.ports.events ++ [.udpAccept off len] } := rfl

@[simp] theorem State.emitUdpAccept_env (s : State) (off len : Half) : (s.emitUdpAccept off len).env = s.env := rfl

@[simp] theorem State.emitUdpAccept_freeCount (s : State) (off len : Half) : (s.emitUdpAccept off len).freeCount = s.freeCount := rfl

/-! ### `State.accClear` -/

@[simp] theorem State.accClear_cfg (s : State) : (s.accClear).cfg = s.cfg := rfl

@[simp] theorem State.accClear_phase (s : State) : (s.accClear).phase = s.phase := rfl

@[simp] theorem State.accClear_status (s : State) : (s.accClear).status = s.status := rfl

@[simp] theorem State.accClear_regs (s : State) : (s.accClear).regs = s.regs := rfl

@[simp] theorem State.accClear_acc (s : State) : (s.accClear).acc = 0x0000 := rfl

@[simp] theorem State.accClear_lat (s : State) : (s.accClear).lat = s.lat := rfl

@[simp] theorem State.accClear_rx (s : State) : (s.accClear).rx = s.rx := rfl

@[simp] theorem State.accClear_tx (s : State) : (s.accClear).tx = s.tx := rfl

@[simp] theorem State.accClear_ports (s : State) : (s.accClear).ports = s.ports := rfl

@[simp] theorem State.accClear_env (s : State) : (s.accClear).env = s.env := rfl

@[simp] theorem State.accClear_freeCount (s : State) : (s.accClear).freeCount = s.freeCount := rfl

/-! ### `State.accAdd` -/

@[simp] theorem State.accAdd_cfg (s : State) (w : Half) : (s.accAdd w).cfg = s.cfg := rfl

@[simp] theorem State.accAdd_phase (s : State) (w : Half) : (s.accAdd w).phase = s.phase := rfl

@[simp] theorem State.accAdd_status (s : State) (w : Half) : (s.accAdd w).status = s.status := rfl

@[simp] theorem State.accAdd_regs (s : State) (w : Half) : (s.accAdd w).regs = s.regs := rfl

@[simp] theorem State.accAdd_acc (s : State) (w : Half) : (s.accAdd w).acc = ocadd s.acc w := rfl

@[simp] theorem State.accAdd_lat (s : State) (w : Half) : (s.accAdd w).lat = s.lat := rfl

@[simp] theorem State.accAdd_rx (s : State) (w : Half) : (s.accAdd w).rx = s.rx := rfl

@[simp] theorem State.accAdd_tx (s : State) (w : Half) : (s.accAdd w).tx = s.tx := rfl

@[simp] theorem State.accAdd_ports (s : State) (w : Half) : (s.accAdd w).ports = s.ports := rfl

@[simp] theorem State.accAdd_env (s : State) (w : Half) : (s.accAdd w).env = s.env := rfl

@[simp] theorem State.accAdd_freeCount (s : State) (w : Half) : (s.accAdd w).freeCount = s.freeCount := rfl

/-! ### `State.accRelease` -/

@[simp] theorem State.accRelease_cfg (s : State) : (s.accRelease).cfg = s.cfg := rfl

@[simp] theorem State.accRelease_phase (s : State) : (s.accRelease).phase = s.phase := rfl

@[simp] theorem State.accRelease_status (s : State) : (s.accRelease).status = s.status := rfl

@[simp] theorem State.accRelease_regs (s : State) : (s.accRelease).regs = s.regs := rfl

@[simp] theorem State.accRelease_acc (s : State) : (s.accRelease).acc = Config.freeAcc s.freeCount := rfl

@[simp] theorem State.accRelease_lat (s : State) : (s.accRelease).lat = s.lat := rfl

@[simp] theorem State.accRelease_rx (s : State) : (s.accRelease).rx = s.rx := rfl

@[simp] theorem State.accRelease_tx (s : State) : (s.accRelease).tx = s.tx := rfl

@[simp] theorem State.accRelease_ports (s : State) : (s.accRelease).ports = s.ports := rfl

@[simp] theorem State.accRelease_env (s : State) : (s.accRelease).env = s.env := rfl

@[simp] theorem State.accRelease_freeCount (s : State) : (s.accRelease).freeCount = s.freeCount + 1 := rfl

/-! ### `State.withScript` -/

@[simp] theorem State.withScript_cfg (s : State) (ops : List EnvOp) : (s.withScript ops).cfg = s.cfg := rfl

@[simp] theorem State.withScript_phase (s : State) (ops : List EnvOp) : (s.withScript ops).phase = s.phase := rfl

@[simp] theorem State.withScript_status (s : State) (ops : List EnvOp) : (s.withScript ops).status = s.status := rfl

@[simp] theorem State.withScript_regs (s : State) (ops : List EnvOp) : (s.withScript ops).regs = s.regs := rfl

@[simp] theorem State.withScript_acc (s : State) (ops : List EnvOp) : (s.withScript ops).acc = s.acc := rfl

@[simp] theorem State.withScript_lat (s : State) (ops : List EnvOp) : (s.withScript ops).lat = s.lat := rfl

@[simp] theorem State.withScript_rx (s : State) (ops : List EnvOp) : (s.withScript ops).rx = s.rx := rfl

@[simp] theorem State.withScript_tx (s : State) (ops : List EnvOp) : (s.withScript ops).tx = s.tx := rfl

@[simp] theorem State.withScript_ports (s : State) (ops : List EnvOp) : (s.withScript ops).ports = s.ports := rfl

@[simp] theorem State.withScript_env (s : State) (ops : List EnvOp) : (s.withScript ops).env = { s.env with script := ops } := rfl

@[simp] theorem State.withScript_freeCount (s : State) (ops : List EnvOp) : (s.withScript ops).freeCount = s.freeCount := rfl

/-! ### `State.logRead` -/

@[simp] theorem State.logRead_cfg (s : State) (op : EnvOp) (v : Word) : (s.logRead op v).cfg = s.cfg := rfl

@[simp] theorem State.logRead_phase (s : State) (op : EnvOp) (v : Word) : (s.logRead op v).phase = s.phase := rfl

@[simp] theorem State.logRead_status (s : State) (op : EnvOp) (v : Word) : (s.logRead op v).status = s.status := rfl

@[simp] theorem State.logRead_regs (s : State) (op : EnvOp) (v : Word) : (s.logRead op v).regs = s.regs := rfl

@[simp] theorem State.logRead_acc (s : State) (op : EnvOp) (v : Word) : (s.logRead op v).acc = s.acc := rfl

@[simp] theorem State.logRead_lat (s : State) (op : EnvOp) (v : Word) : (s.logRead op v).lat = s.lat := rfl

@[simp] theorem State.logRead_rx (s : State) (op : EnvOp) (v : Word) : (s.logRead op v).rx = s.rx := rfl

@[simp] theorem State.logRead_tx (s : State) (op : EnvOp) (v : Word) : (s.logRead op v).tx = s.tx := rfl

@[simp] theorem State.logRead_ports (s : State) (op : EnvOp) (v : Word) : (s.logRead op v).ports = s.ports := rfl

@[simp] theorem State.logRead_env (s : State) (op : EnvOp) (v : Word) :
    (s.logRead op v).env = { s.env with reads := s.env.reads ++ [(op, v)] } := rfl

@[simp] theorem State.logRead_freeCount (s : State) (op : EnvOp) (v : Word) : (s.logRead op v).freeCount = s.freeCount := rfl

/-! ### `State.hardReset` -/

@[simp] theorem State.hardReset_cfg (s : State) : (s.hardReset).cfg = s.cfg := rfl

@[simp] theorem State.hardReset_phase (s : State) : (s.hardReset).phase = .idle := rfl

@[simp] theorem State.hardReset_status (s : State) : (s.hardReset).status = Status.reset := rfl

@[simp] theorem State.hardReset_regs (s : State) : (s.hardReset).regs = Regs.reset := rfl

@[simp] theorem State.hardReset_acc (s : State) : (s.hardReset).acc = 0x0000 := rfl

@[simp] theorem State.hardReset_lat (s : State) : (s.hardReset).lat = Latches.reset := rfl

@[simp] theorem State.hardReset_rx (s : State) : (s.hardReset).rx = [] := rfl

@[simp] theorem State.hardReset_tx (s : State) : (s.hardReset).tx = [] := rfl

@[simp] theorem State.hardReset_ports (s : State) : (s.hardReset).ports = ⟨none, none, s.ports.events⟩ := rfl

@[simp] theorem State.hardReset_env (s : State) : (s.hardReset).env = s.env := rfl

@[simp] theorem State.hardReset_freeCount (s : State) : (s.hardReset).freeCount = s.freeCount := rfl

/-! ### `State.setMem` -/

@[simp] theorem State.setMem_cfg (s : State) (b : Buf) (m : Memory) : (s.setMem b m).cfg = s.cfg := by
  cases b <;> rfl

@[simp] theorem State.setMem_phase (s : State) (b : Buf) (m : Memory) : (s.setMem b m).phase = s.phase := by
  cases b <;> rfl

@[simp] theorem State.setMem_status (s : State) (b : Buf) (m : Memory) : (s.setMem b m).status = s.status := by
  cases b <;> rfl

@[simp] theorem State.setMem_regs (s : State) (b : Buf) (m : Memory) : (s.setMem b m).regs = s.regs := by
  cases b <;> rfl

@[simp] theorem State.setMem_acc (s : State) (b : Buf) (m : Memory) : (s.setMem b m).acc = s.acc := by
  cases b <;> rfl

@[simp] theorem State.setMem_lat (s : State) (b : Buf) (m : Memory) : (s.setMem b m).lat = s.lat := by
  cases b <;> rfl

@[simp] theorem State.setMem_ports (s : State) (b : Buf) (m : Memory) : (s.setMem b m).ports = s.ports := by
  cases b <;> rfl

@[simp] theorem State.setMem_env (s : State) (b : Buf) (m : Memory) : (s.setMem b m).env = s.env := by
  cases b <;> rfl

@[simp] theorem State.setMem_freeCount (s : State) (b : Buf) (m : Memory) : (s.setMem b m).freeCount = s.freeCount := by
  cases b <;> rfl

@[simp] theorem State.setMem_rx_rx (s : State) (m : Memory) : (s.setMem .rx m).rx = m := rfl

@[simp] theorem State.setMem_rx_tx (s : State) (m : Memory) : (s.setMem .rx m).tx = s.tx := rfl

@[simp] theorem State.setMem_tx_rx (s : State) (m : Memory) : (s.setMem .tx m).rx = s.rx := rfl

@[simp] theorem State.setMem_tx_tx (s : State) (m : Memory) : (s.setMem .tx m).tx = m := rfl

@[simp] theorem State.mem_rx (s : State) : s.mem .rx = s.rx := rfl

@[simp] theorem State.mem_tx (s : State) : s.mem .tx = s.tx := rfl

@[simp] theorem State.mem_setMem_same (s : State) (b : Buf) (m : Memory) : (s.setMem b m).mem b = m := by
  cases b <;> rfl

theorem State.mem_setMem_ne (s : State) {b b' : Buf} (m : Memory) (h : b' ≠ b) :
    (s.setMem b m).mem b' = s.mem b' := by
  cases b <;> cases b' <;> simp_all [State.mem, State.setMem]

@[simp] theorem State.setMem_setMem (s : State) (b : Buf) (m m' : Memory) :
    (s.setMem b m).setMem b m' = s.setMem b m' := by
  cases b <;> rfl

@[simp] theorem State.setMem_mem (s : State) (b : Buf) : s.setMem b (s.mem b) = s := by
  cases b <;> rfl

theorem State.size_congr {s t : State} (h : t.cfg = s.cfg) (b : Buf) : t.size b = s.size b := by
  cases b <;> simp [State.size, h]

@[simp] theorem State.setMem_size (s : State) (b b' : Buf) (m : Memory) : (s.setMem b m).size b' = s.size b' :=
  State.size_congr (by simp) b'

/-- A drop is a finish (41_dispatch R172). -/
@[simp] theorem State.drop_eq (s : State) (code : OutcomeCode) : s.drop code = s.finish code := rfl

/-! ### `Status` -/

@[simp] theorem Status.finish_done (st : Status) (code : OutcomeCode) : (st.finish code).done = true := rfl

@[simp] theorem Status.finish_errBusy (st : Status) (code : OutcomeCode) :
    (st.finish code).errBusy = st.errBusy := rfl

@[simp] theorem Status.finish_outcome (st : Status) (code : OutcomeCode) : (st.finish code).outcome = code := rfl

@[simp] theorem Status.finish_lastOp (st : Status) (code : OutcomeCode) : (st.finish code).lastOp = st.lastOp := rfl

@[simp] theorem Status.accept_done (st : Status) (op : BitVec 4) : (st.accept op).done = false := rfl

@[simp] theorem Status.accept_errBusy (st : Status) (op : BitVec 4) : (st.accept op).errBusy = st.errBusy := rfl

@[simp] theorem Status.accept_outcome (st : Status) (op : BitVec 4) : (st.accept op).outcome = st.outcome := rfl

@[simp] theorem Status.accept_lastOp (st : Status) (op : BitVec 4) : (st.accept op).lastOp = op := rfl

@[simp] theorem Status.setErrBusy_done (st : Status) : st.setErrBusy.done = st.done := rfl

@[simp] theorem Status.setErrBusy_errBusy (st : Status) : st.setErrBusy.errBusy = true := rfl

@[simp] theorem Status.setErrBusy_outcome (st : Status) : st.setErrBusy.outcome = st.outcome := rfl

@[simp] theorem Status.setErrBusy_lastOp (st : Status) : st.setErrBusy.lastOp = st.lastOp := rfl

@[simp] theorem Status.hostWrite_done (st : Status) (v : Word) : (st.hostWrite v).done = st.done := by
  unfold Status.hostWrite; split <;> rfl

@[simp] theorem Status.hostWrite_outcome (st : Status) (v : Word) : (st.hostWrite v).outcome = st.outcome := by
  unfold Status.hostWrite; split <;> rfl

@[simp] theorem Status.hostWrite_lastOp (st : Status) (v : Word) : (st.hostWrite v).lastOp = st.lastOp := by
  unfold Status.hostWrite; split <;> rfl

/-! ### The latches -/

theorem latchOperands_proc (r : Regs) (l : Latches) :
    latchOperands r l 0x1 = { l with op := 0x1, frameLen := r.frameLen, devIp := r.devIp } := rfl

theorem latchOperands_csum (r : Regs) (l : Latches) :
    latchOperands r l 0x2 = { l with op := 0x2, a := r.csA, b := r.csB, odd := r.csOdd } := rfl

theorem latchOperands_csum2 (r : Regs) (l : Latches) :
    latchOperands r l 0x3 = { l with op := 0x3, a := r.csA, b := r.csB, odd := r.csOdd } := rfl

@[simp] theorem latchOperands_op (r : Regs) (l : Latches) (op : BitVec 4) : (latchOperands r l op).op = op := by
  unfold latchOperands; split <;> [rfl; (split <;> rfl)]

/-! ### The phase -/

@[simp] theorem Phase.isBusy_idle : Phase.isBusy .idle = false := rfl

@[simp] theorem Phase.isBusy_busy (f : Format) : Phase.isBusy (.busy f) = true := rfl

theorem Phase.isBusy_eq_true {p : Phase} (h : p.isBusy = true) : ∃ f, p = .busy f := by
  cases p with
  | idle => simp at h
  | busy f => exact ⟨f, rfl⟩

theorem Phase.isBusy_eq_false {p : Phase} (h : p.isBusy = false) : p = .idle := by
  cases p with
  | idle => rfl
  | busy f => simp at h

end Sys2Proof.Machine
end

