-- ==== Sys2Proof/Laws/Buffer.lean ====
section
/-! SUPPORT. What each buffer operation of a state answers, once and for all. -/

namespace Sys2Proof.Machine

/-! ### Reads -/

theorem State.readByte_eq_ok {s : State} {b : Buf} {o : Nat} {v : Byte} :
    s.readByte b o = .ok v ↔ o < s.size b ∧ (s.mem b).get? o = some v := by
  unfold State.readByte
  split <;> [(split <;> simp_all); simp_all]

/-- A read depends on the buffer and its size only. -/
theorem State.readByte_congr {s t : State} {b : Buf} (hc : t.cfg = s.cfg) (hm : t.mem b = s.mem b) (o : Nat) :
    t.readByte b o = s.readByte b o := by
  simp [State.readByte, hm, State.size_congr hc]

theorem State.memRead_congr {s t : State} {b : Buf} (hc : t.cfg = s.cfg) (hm : t.mem b = s.mem b) (o n : Nat) :
    t.memRead b o n = s.memRead b o n := by
  induction n generalizing o with
  | zero => rfl
  | succ n ih => simp [State.memRead, State.readByte_congr hc hm, ih]

theorem State.be16_congr {s t : State} {b : Buf} (hc : t.cfg = s.cfg) (hm : t.mem b = s.mem b) (o : Nat) :
    t.be16 b o = s.be16 b o := by
  simp [State.be16, State.readByte_congr hc hm]

/-- A block read answers exactly the bytes its offsets hold. -/
theorem State.memRead_eq_ok {s : State} {b : Buf} {o n : Nat} {bs : List Byte} :
    s.memRead b o n = .ok bs ↔ bs.length = n ∧ ∀ k (h : k < bs.length), s.readByte b (o + k) = .ok bs[k] := by
  induction n generalizing o bs with
  | zero =>
    constructor
    · intro h; simp only [State.memRead, Except.ok.injEq] at h; subst h; simp
    · rintro ⟨h, -⟩; simp [State.memRead, List.eq_nil_of_length_eq_zero h]
  | succ n ih =>
    simp only [State.memRead, bind_eq_ok, Except.ok.injEq]
    constructor
    · rintro ⟨v, hv, vs, hvs, rfl⟩
      obtain ⟨hl, hk⟩ := ih.1 hvs
      refine ⟨by simp [hl], fun k h => ?_⟩
      cases k with
      | zero => simpa using hv
      | succ k =>
        have := hk k (by simpa using h)
        simpa [Nat.add_assoc, Nat.add_comm 1 k] using this
    · rintro ⟨hl, hk⟩
      cases bs with
      | nil => simp at hl
      | cons v vs =>
        refine ⟨v, hk 0 (by simp), vs, ih.2 ⟨by simpa using hl, fun k h => ?_⟩, rfl⟩
        have := hk (k + 1) (by simpa using h)
        simpa [Nat.add_assoc, Nat.add_comm 1 k] using this

theorem State.memRead_length {s : State} {b : Buf} {o n : Nat} {bs : List Byte}
    (h : s.memRead b o n = .ok bs) : bs.length = n := (State.memRead_eq_ok.1 h).1

/-- A block read is the read of its first part followed by the read of its second. -/
theorem State.memRead_add (s : State) (b : Buf) (o n m : Nat) :
    s.memRead b o (n + m) =
      (s.memRead b o n >>= fun xs => s.memRead b (o + n) m >>= fun ys => .ok (xs ++ ys)) := by
  induction n generalizing o with
  | zero => simp [State.memRead]; cases s.memRead b o m <;> rfl
  | succ n ih =>
    rw [Nat.add_right_comm n 1 m]
    simp only [State.memRead, ih]
    rw [show o + 1 + n = o + (n + 1) by omega]
    cases s.readByte b o <;> simp

theorem State.be16_eq_ok {s : State} {b : Buf} {o : Nat} {v : Half} :
    s.be16 b o = .ok v ↔ ∃ hi lo, s.readByte b o = .ok hi ∧ s.readByte b (o + 1) = .ok lo ∧ hi ++ lo = v := by
  simp [State.be16, bind_eq_ok]

/-! ### Writes -/

theorem State.writeByte_eq_ok {s t : State} {b : Buf} {o : Nat} {v : Byte} :
    s.writeByte b o v = .ok t ↔ o < s.size b ∧ t = s.setMem b ((s.mem b).put o v) := by
  unfold State.writeByte
  split <;> simp_all [eq_comm]

/-- A block write that answers has written exactly its bytes into its buffer. -/
theorem State.memWrite_eq {s t : State} {b : Buf} {o : Nat} {bs : List Byte} (h : s.memWrite b o bs = .ok t) :
    t = s.setMem b ((s.mem b).putBytes o bs) := by
  induction bs generalizing s o with
  | nil => simp only [State.memWrite, Except.ok.injEq] at h; simp [Memory.putBytes, h]
  | cons v vs ih =>
    simp only [State.memWrite, bind_eq_ok] at h
    obtain ⟨u, hu, ht⟩ := h
    obtain ⟨-, rfl⟩ := State.writeByte_eq_ok.1 hu
    simpa [Memory.putBytes] using ih ht

/-- A block write answers exactly when its bytes lie inside the buffer. -/
theorem State.memWrite_ok {s : State} {b : Buf} {o : Nat} {bs : List Byte} (h : o + bs.length ≤ s.size b) :
    s.memWrite b o bs = .ok (s.setMem b ((s.mem b).putBytes o bs)) := by
  induction bs generalizing s o with
  | nil => simp [State.memWrite, Memory.putBytes]
  | cons v vs ih =>
    simp only [List.length_cons] at h
    have hw : s.writeByte b o v = .ok (s.setMem b ((s.mem b).put o v)) :=
      State.writeByte_eq_ok.2 ⟨by omega, rfl⟩
    simp only [State.memWrite, hw, ok_bind]
    rw [ih (by simp; omega)]
    simp [Memory.putBytes]

@[simp] theorem halfBytes_length (v : Half) : (halfBytes v).length = 2 := rfl

theorem State.put16_eq {s t : State} {b : Buf} {o : Nat} {v : Half} (h : s.put16 b o v = .ok t) :
    t = s.setMem b ((s.mem b).putBytes o (halfBytes v)) := State.memWrite_eq h

theorem State.put16_ok {s : State} {b : Buf} {o : Nat} (v : Half) (h : o + 2 ≤ s.size b) :
    s.put16 b o v = .ok (s.setMem b ((s.mem b).putBytes o (halfBytes v))) := State.memWrite_ok (by simpa using h)

/-- A read after a block write: the bytes written, and everything else as before. -/
theorem State.readByte_putBytes (s : State) (b : Buf) (o : Nat) (bs : List Byte) (a : Nat) :
    (s.setMem b ((s.mem b).putBytes o bs)).readByte b a =
      if h : o ≤ a ∧ a < o + bs.length then
        (if a < s.size b then .ok (bs[a - o]'(by omega)) else .error (.outsideBuffer b a))
      else s.readByte b a := by
  unfold State.readByte
  simp only [State.setMem_size, State.mem_setMem_same, Memory.get?_putBytes]
  by_cases h : o ≤ a ∧ a < o + bs.length
  · have hlt : a - o < bs.length := by omega
    simp [h, List.getElem?_eq_getElem hlt]
  · simp [h]

/-- A block write leaves every offset outside its bytes alone. -/
theorem State.memWrite_frame {s t : State} {b : Buf} {o : Nat} {bs : List Byte} (h : s.memWrite b o bs = .ok t)
    {a : Nat} (ha : a < o ∨ o + bs.length ≤ a) : t.readByte b a = s.readByte b a := by
  rw [State.memWrite_eq h, State.readByte_putBytes]
  simp [show ¬(o ≤ a ∧ a < o + bs.length) by omega]

/-- A block write leaves the other buffer alone. -/
theorem State.memWrite_other {s t : State} {b b' : Buf} {o : Nat} {bs : List Byte}
    (h : s.memWrite b o bs = .ok t) (hb : b' ≠ b) (a : Nat) : t.readByte b' a = s.readByte b' a := by
  rw [State.memWrite_eq h]
  exact State.readByte_congr (by simp) (State.mem_setMem_ne s _ hb) a

/-! ### The canonical form -/

/-- A write inside the buffer keeps a buffer in canonical form and inside its size. -/
theorem Memory.putBytes_fits {m : Memory} {size o : Nat} {bs : List Byte} (h : m.fits size)
    (hb : o + bs.length ≤ size) : (m.putBytes o bs).fits size :=
  ⟨Memory.putBytes_wf h.1 o bs, fun c hc => (Memory.mem_putBytes hc).elim (fun ⟨_, h2⟩ => by omega) (h.2 c)⟩

/-- The canonical form at reset. -/
theorem Memory.nil_fits (size : Nat) : Memory.fits [] size := ⟨List.Pairwise.nil, by simp⟩

/-- An engine's byte write keeps both buffers canonical. -/
theorem State.writeByte_fits {s t : State} {b : Buf} {o : Nat} {v : Byte} (h : s.writeByte b o v = .ok t)
    {b' : Buf} (hf : (s.mem b').fits (s.size b')) : (t.mem b').fits (t.size b') := by
  obtain ⟨ho, rfl⟩ := State.writeByte_eq_ok.1 h
  by_cases hb : b' = b
  · subst hb
    have := Memory.putBytes_fits (bs := [v]) hf (by simpa using ho)
    simpa [Memory.putBytes] using this
  · simpa [State.mem_setMem_ne s _ hb] using hf

/-- An engine's block write keeps both buffers canonical. -/
theorem State.memWrite_fits {s t : State} {b : Buf} {o : Nat} {bs : List Byte} (h : s.memWrite b o bs = .ok t)
    {b' : Buf} (hf : (s.mem b').fits (s.size b')) : (t.mem b').fits (t.size b') := by
  induction bs generalizing s o with
  | nil => simp only [State.memWrite, Except.ok.injEq] at h; exact h ▸ hf
  | cons v vs ih =>
    simp only [State.memWrite, bind_eq_ok] at h
    obtain ⟨u, hu, ht⟩ := h
    exact ih ht (State.writeByte_fits hu hf)

/-- The host's window write keeps both buffers canonical (20_memory R80). -/
theorem State.hostWriteBytes_fits {s t : State} {b : Buf} {o : Nat} {bs : List Byte}
    (h : s.hostWriteBytes b o bs = .next t) {b' : Buf} (hf : (s.mem b').fits (s.size b')) :
    (t.mem b').fits (t.size b') := by
  unfold State.hostWriteBytes at h
  split_ifs at h with h1 h2 h3
  simp only [Host.Outcome.next.injEq] at h
  subst h
  by_cases hb : b' = b
  · subst hb
    simpa using Memory.putBytes_fits hf (by omega)
  · simpa [State.mem_setMem_ne s _ hb] using hf

end Sys2Proof.Machine
end

