-- ==== Sys2Proof/Laws/Checksum.lean ====
section
/-! SUPPORT. The checksum operations in terms of their results: what the accumulator holds, and what
verify and generate answer. -/

namespace Sys2Proof.Machine

/-- The exact 16-bit value of one addition (40_checksum R141). -/
theorem ocadd_toNat (a b : Half) :
    (ocadd a b).toNat = if 0xFFFF < a.toNat + b.toNat then a.toNat + b.toNat - 0xFFFF else a.toNat + b.toNat := by
  have ha := a.isLt
  have hb := b.isLt
  simp only [ocadd, BitVec.toNat_ofNat]
  split <;> omega

theorem ocadd_zero_left (a : Half) : ocadd 0x0000 a = a := by
  apply BitVec.eq_of_toNat_eq
  have ha := a.isLt
  rw [ocadd_toNat, show (0x0000 : Half).toNat = 0 from rfl]
  split <;> omega

theorem ocadd_comm (a b : Half) : ocadd a b = ocadd b a := by
  simp only [ocadd, Nat.add_comm]

theorem ocadd_assoc (a b c : Half) : ocadd (ocadd a b) c = ocadd a (ocadd b c) := by
  apply BitVec.eq_of_toNat_eq
  have ha := a.isLt
  have hb := b.isLt
  have hc := c.isLt
  simp only [ocadd_toNat]
  split_ifs <;> omega

/-- The accumulator's run changes ACC only, and leaves the folded sum in it (40_checksum R143). -/
theorem State.accSum_eq (s : State) (ws : List Half) : s.accSum ws = { s with acc := ocsum ws } := by
  have key : ∀ (ws : List Half) (t : State), ws.foldl State.accAdd t = { t with acc := ws.foldl ocadd t.acc } := by
    intro ws
    induction ws with
    | nil => intro t; rfl
    | cons w ws ih => intro t; simp only [List.foldl_cons, ih]; rfl
  exact key ws s.accClear

/-- The result of a checksum computation, whatever ACC held before (40_checksum R144). -/
@[simp] theorem State.checksum_fst (s : State) (ws : List Half) : (s.checksum ws).1 = inet ws := by
  simp [State.checksum, State.accSum_eq, inet]

/-- After a computation ACC is free and nothing else has changed (10_state R54, 40_checksum R140). -/
@[simp] theorem State.checksum_snd (s : State) (ws : List Half) : (s.checksum ws).2 = s.accRelease := by
  simp [State.checksum, State.accSum_eq, State.accRelease]

/-- The words of a region depend on its buffer only. -/
theorem State.wholeWords_congr {s t : State} {b : Buf} (hc : t.cfg = s.cfg) (hm : t.mem b = s.mem b) (o n : Nat) :
    t.wholeWords b o n = s.wholeWords b o n := by
  induction n generalizing o with
  | zero => rfl
  | succ n ih => simp [State.wholeWords, State.be16_congr hc hm, ih]

theorem State.words_congr {s t : State} {b : Buf} (hc : t.cfg = s.cfg) (hm : t.mem b = s.mem b) (o n : Nat)
    (odd : Bool) : t.words b o n odd = s.words b o n odd := by
  simp [State.words, State.oddWord, State.wholeWords_congr hc hm, State.readByte_congr hc hm]

theorem State.wordsZ_congr {s t : State} {b : Buf} (hc : t.cfg = s.cfg) (hm : t.mem b = s.mem b) (o n : Nat)
    (odd : Bool) (f : Nat) : t.wordsZ b o n odd f = s.wordsZ b o n odd f := by
  unfold State.wordsZ
  by_cases h : f + 2 ≤ s.size b
  · rw [State.put16_ok _ h, State.put16_ok _ (by rwa [State.size_congr hc])]
    simp only [ok_bind]
    exact State.words_congr (by simpa using hc) (by simp [hm]) o n odd
  · have key : ∀ u : State, ¬f + 2 ≤ u.size b → ∃ e, u.put16 b f 0x0000 = .error e ∧
        (f < u.size b → e = .outsideBuffer b (f + 1)) ∧ (¬f < u.size b → e = .outsideBuffer b f) := by
      intro u hu
      by_cases h1 : f < u.size b
      · exact ⟨.outsideBuffer b (f + 1), by
          have h2 : ¬f + 1 < u.size b := by omega
          simp [State.put16, halfBytes, State.memWrite, State.writeByte, h1, h2], fun _ => rfl, fun h => absurd h1 h⟩
      · exact ⟨.outsideBuffer b f, by
          simp [State.put16, halfBytes, State.memWrite, State.writeByte, h1], fun h => absurd h h1, fun _ => rfl⟩
    obtain ⟨e, he, he1, he2⟩ := key s h
    obtain ⟨e', he', he1', he2'⟩ := key t (by rwa [State.size_congr hc])
    rw [he, he']
    rw [State.size_congr hc] at he1' he2'
    by_cases h1 : f < s.size b
    · rw [he1 h1, he1' h1]
    · rw [he2 h1, he2' h1]

/-- Verify answers the comparison and a state that differs in ACC only (40_checksum R150). -/
theorem State.verify_eq_ok {s : State} {b : Buf} {o n : Nat} {odd : Bool} {f : Nat} {r : Bool × State} :
    s.verify b o n odd f = .ok r ↔
      ∃ saved ws, s.be16 b f = .ok saved ∧ s.wordsZ b o n odd f = .ok ws
        ∧ r = (decide (inet ws = saved), s.accRelease) := by
  simp only [State.verify, bind_eq_ok, State.checksum_fst, State.checksum_snd, Except.ok.injEq]
  constructor
  · rintro ⟨saved, h1, ws, h2, rfl⟩; exact ⟨saved, ws, h1, h2, rfl⟩
  · rintro ⟨saved, ws, h1, h2, rfl⟩; exact ⟨saved, h1, ws, h2, rfl⟩

/-- Generate answers a state whose buffer has two bytes written twice, and a free ACC (40_checksum R151). -/
theorem State.generate_eq_ok {s t : State} {b : Buf} {o n : Nat} {odd : Bool} {f : Nat} :
    s.generate b o n odd f = .ok t ↔
      ∃ z ws, s.put16 b f 0x0000 = .ok z ∧ z.words b o n odd = .ok ws
        ∧ z.accRelease.put16 b f (inet ws) = .ok t := by
  simp only [State.generate, bind_eq_ok, State.checksum_fst, State.checksum_snd]
  constructor
  · rintro ⟨z, h1, ws, h2, h3⟩; exact ⟨z, ws, h1, h2, h3⟩
  · rintro ⟨z, ws, h1, h2, h3⟩; exact ⟨z, h1, ws, h2, h3⟩

end Sys2Proof.Machine
end

