-- ==== Sys2Proof/Laws/Decode.lean ====
section
/-! SUPPORT. Small laws of the decoder and the encoder. -/

namespace Sys2Proof

@[simp] theorem Decoded.instr?_instr (i : Instr) : (Decoded.instr i).instr? = some i := rfl

@[simp] theorem Decoded.instr?_reject (r : Reject) : (Decoded.reject r).instr? = none := rfl

/-- A UDP checksum field is never rejected (30_encoding R115). -/
theorem decodeUdpCsum_ne_reject (s : Half) (r : Reject) : decodeUdpCsum s ≠ .reject r := by
  unfold decodeUdpCsum
  split_ifs <;> simp

end Sys2Proof
end

