-- ==== Sys2Proof/Laws/Exec.lean ====
section
/-! SUPPORT. For each meaning, once: if it answers a next state, then one of these cases holds. Later proofs
cite these and do not unfold the meanings. -/

namespace Sys2Proof.Machine

/-- PROC goes on to an EtherType row or drops the frame (41_dispatch R173). -/
theorem execProc_next {s t : State} (h : execProc s = .next t) :
    t = s.enter .ethClass ∨ ∃ code, t = s.finish code := by
  simp only [execProc, settle_eq_next] at h
  split at h
  · exact .inr ⟨_, (Except.ok.inj h).symm⟩
  · obtain ⟨et, -, h⟩ := bind_eq_ok.1 h
    split at h
    · exact .inr ⟨_, (Except.ok.inj h).symm⟩
    · obtain ⟨dst, -, h⟩ := bind_eq_ok.1 h
      split_ifs at h
      all_goals first
        | exact .inl (Except.ok.inj h).symm
        | exact .inr ⟨_, (Except.ok.inj h).symm⟩

/-- CSUM is out of range, or finishes with the checksum of its region's words (40_checksum R147). -/
theorem execCsum_next {s t : State} (h : execCsum s = .next t) :
    t = s.finish .errRange ∨ ∃ ws, s.regionWords s.lat.a s.lat.odd = .ok ws ∧ t = s.finishCsum ws := by
  simp only [execCsum, settle_eq_next] at h
  split at h
  · exact .inl (Except.ok.inj h).symm
  · obtain ⟨ws, hw, h⟩ := bind_eq_ok.1 h
    exact .inr ⟨ws, hw, (Except.ok.inj h).symm⟩

/-- CSUM2 is out of range, or finishes with the checksum of both regions' words (40_checksum R148). -/
theorem execCsum2_next {s t : State} (h : execCsum2 s = .next t) :
    t = s.finish .errRange ∨ ∃ wa wb, s.regionWords s.lat.a false = .ok wa
      ∧ s.regionWords s.lat.b s.lat.odd = .ok wb ∧ t = s.finishCsum (wa ++ wb) := by
  simp only [execCsum2, settle_eq_next] at h
  split_ifs at h
  · exact .inl (Except.ok.inj h).symm
  · exact .inl (Except.ok.inj h).symm
  · obtain ⟨wa, ha, h⟩ := bind_eq_ok.1 h
    obtain ⟨wb, hb, h⟩ := bind_eq_ok.1 h
    exact .inr ⟨wa, wb, ha, hb, (Except.ok.inj h).symm⟩

/-- ARP_REQ drops the frame with nothing written, or transmits the reply it built (42_arp R190). -/
theorem execArpReq_next {s t : State} (h : execArpReq s = .next t) :
    (∃ code, t = s.finish code)
      ∨ ∃ u, s.arpBuildReply = .ok u ∧ t = (u.emitTransmit 42).finish .arpReplyTx := by
  simp only [execArpReq, settle_eq_next] at h
  split at h
  · exact .inl ⟨_, (Except.ok.inj h).symm⟩
  · obtain ⟨_, -, h⟩ := bind_eq_ok.1 h
    split at h
    · exact .inl ⟨_, (Except.ok.inj h).symm⟩
    · obtain ⟨_, -, h⟩ := bind_eq_ok.1 h
      split at h
      · exact .inl ⟨_, (Except.ok.inj h).symm⟩
      · obtain ⟨_, -, h⟩ := bind_eq_ok.1 h
        split_ifs at h
        · exact .inl ⟨_, (Except.ok.inj h).symm⟩
        · exact .inl ⟨_, (Except.ok.inj h).symm⟩
        · obtain ⟨_, -, h⟩ := bind_eq_ok.1 h
          split at h
          · exact .inl ⟨_, (Except.ok.inj h).symm⟩
          · obtain ⟨u, hu, h⟩ := bind_eq_ok.1 h
            exact .inr ⟨u, hu, (Except.ok.inj h).symm⟩

/-- IPV4_UNICAST drops the frame before or after the checksum computation, or goes on to its protocol's
row; ACC is the only thing it writes (43_ipv4 R210, R217). -/
theorem execIpv4Unicast_next {s t : State} (h : execIpv4Unicast s = .next t) :
    (∃ code, t = s.finish code) ∨ (∃ code, t = s.accRelease.finish code)
      ∨ t = s.accRelease.enter .ipProto := by
  simp only [execIpv4Unicast, settle_eq_next] at h
  split at h
  · exact .inl ⟨_, (Except.ok.inj h).symm⟩
  · obtain ⟨_, -, h⟩ := bind_eq_ok.1 h
    split at h
    · exact .inl ⟨_, (Except.ok.inj h).symm⟩
    · obtain ⟨_, -, h⟩ := bind_eq_ok.1 h
      split at h
      · exact .inl ⟨_, (Except.ok.inj h).symm⟩
      · obtain ⟨v, hv, h⟩ := bind_eq_ok.1 h
        obtain ⟨_, _, -, -, rfl⟩ := State.verify_eq_ok.1 hv
        split at h
        · exact .inr (.inl ⟨_, (Except.ok.inj h).symm⟩)
        · obtain ⟨_, -, h⟩ := bind_eq_ok.1 h
          split at h
          · exact .inr (.inr (Except.ok.inj h).symm)
          · exact .inr (.inl ⟨_, (Except.ok.inj h).symm⟩)

/-- ICMP drops the frame or goes on to its type's row (44_icmp R230). -/
theorem execIcmp_next {s t : State} (h : execIcmp s = .next t) :
    t = s.enter .icmpType ∨ ∃ code, t = s.finish code := by
  simp only [execIcmp, settle_eq_next] at h
  obtain ⟨_, -, h⟩ := bind_eq_ok.1 h
  obtain ⟨_, -, h⟩ := bind_eq_ok.1 h
  split at h
  · exact .inr ⟨_, (Except.ok.inj h).symm⟩
  · obtain ⟨_, -, h⟩ := bind_eq_ok.1 h
    split at h
    · exact .inr ⟨_, (Except.ok.inj h).symm⟩
    · exact .inl (Except.ok.inj h).symm

/-- ICMP_ECHO_REQ drops the frame after the checksum computation, or transmits the reply it built
(44_icmp R230). -/
theorem execIcmpEchoReq_next {s t : State} (h : execIcmpEchoReq s = .next t) :
    t = s.accRelease.finish .dropIcmpCsum
      ∨ ∃ ihl tl u, s.ihl = .ok ihl ∧ s.totalLen = .ok tl
          ∧ s.accRelease.icmpBuildReply ihl (tl - 4 * ihl) = .ok u
          ∧ t = (u.emitTransmit u.lat.frameLen).finish .icmpReplyTx := by
  simp only [execIcmpEchoReq, settle_eq_next] at h
  obtain ⟨ihl, hi, h⟩ := bind_eq_ok.1 h
  obtain ⟨tl, ht, h⟩ := bind_eq_ok.1 h
  obtain ⟨v, hv, h⟩ := bind_eq_ok.1 h
  obtain ⟨_, _, -, -, rfl⟩ := State.verify_eq_ok.1 hv
  split at h
  · exact .inl (Except.ok.inj h).symm
  · obtain ⟨u, hu, h⟩ := bind_eq_ok.1 h
    exact .inr ⟨ihl, tl, u, hi, ht, hu, (Except.ok.inj h).symm⟩

/-- UDP drops the frame with nothing written, or has built the pseudo-header in TX (45_udp R250). -/
theorem execUdp_next {s t : State} (h : execUdp s = .next t) :
    (∃ code, t = s.finish code)
      ∨ ∃ ihl len u, s.ihl = .ok ihl ∧ s.udpLength (payloadOff ihl) = .ok len
          ∧ s.buildPseudoHeader (payloadOff ihl) len = .ok u ∧ t = u.enter .udpCsum := by
  simp only [execUdp, settle_eq_next] at h
  obtain ⟨ihl, hi, h⟩ := bind_eq_ok.1 h
  obtain ⟨_, -, h⟩ := bind_eq_ok.1 h
  split at h
  · exact .inl ⟨_, (Except.ok.inj h).symm⟩
  · obtain ⟨len, hl, h⟩ := bind_eq_ok.1 h
    split at h
    · exact .inl ⟨_, (Except.ok.inj h).symm⟩
    · obtain ⟨u, hu, h⟩ := bind_eq_ok.1 h
      exact .inr ⟨ihl, len, u, hi, hl, hu, (Except.ok.inj h).symm⟩

/-- UDP_CSUM_NONE hands the datagram off (45_udp R253). -/
theorem execUdpCsumNone_next {s t : State} (h : execUdpCsumNone s = .next t) :
    ∃ ihl len, s.ihl = .ok ihl ∧ s.udpLength (payloadOff ihl) = .ok len ∧ t = s.handOff (payloadOff ihl) len := by
  simp only [execUdpCsumNone, settle_eq_next] at h
  obtain ⟨ihl, hi, h⟩ := bind_eq_ok.1 h
  obtain ⟨len, hl, h⟩ := bind_eq_ok.1 h
  exact ⟨ihl, len, hi, hl, (Except.ok.inj h).symm⟩

/-- The UDP comparison drops the frame or hands it off (45_udp R254). -/
theorem State.udpCompare_eq_ok {s t : State} {e : Half} (h : s.udpCompare e = .ok t) :
    ∃ ihl len ws, s.ihl = .ok ihl ∧ s.udpLength (payloadOff ihl) = .ok len
      ∧ s.udpWords (payloadOff ihl) len = .ok ws
      ∧ ((inet ws ≠ e ∧ t = s.accRelease.finish .dropUdpCsum)
        ∨ (inet ws = e ∧ t = s.accRelease.handOff (payloadOff ihl) len)) := by
  unfold State.udpCompare at h
  obtain ⟨ihl, hi, h⟩ := bind_eq_ok.1 h
  obtain ⟨len, hl, h⟩ := bind_eq_ok.1 h
  obtain ⟨ws, hw, h⟩ := bind_eq_ok.1 h
  simp only [State.checksum_fst, State.checksum_snd] at h
  refine ⟨ihl, len, ws, hi, hl, hw, ?_⟩
  split at h
  · next hc => exact .inl ⟨hc, (Except.ok.inj h).symm⟩
  · next hc => exact .inr ⟨not_not.1 hc, (Except.ok.inj h).symm⟩

/-- A meaning never refuses: it answers a next state or the fault of a buffer access. -/
theorem exec_ne_refused (i : Instr) (s : State) (r : Refusal) : exec i s ≠ .refused r := by
  cases i <;> exact settle_ne_refused

end Sys2Proof.Machine
end

