-- ==== Sys2Proof/Laws/PerInstr.lean ====
section
/-! SUPPORT. Statements made of every instruction, one lemma per constructor. -/

namespace Sys2Proof.Laws

/-- An instruction's code word belongs to the encoding of its row (opcode_table.json "format"). -/
def EncodeFormat.Statement (i : Instr) : Prop := (encode i).format = i.format

theorem EncodeFormat.proc : EncodeFormat.Statement .proc := rfl
theorem EncodeFormat.csum : EncodeFormat.Statement .csum := rfl
theorem EncodeFormat.csum2 : EncodeFormat.Statement .csum2 := rfl
theorem EncodeFormat.arpReq : EncodeFormat.Statement .arpReq := rfl
theorem EncodeFormat.ipv4Unicast : EncodeFormat.Statement .ipv4Unicast := rfl
theorem EncodeFormat.icmp : EncodeFormat.Statement .icmp := rfl
theorem EncodeFormat.icmpEchoReq : EncodeFormat.Statement .icmpEchoReq := rfl
theorem EncodeFormat.udp : EncodeFormat.Statement .udp := rfl
theorem EncodeFormat.udpCsumNone : EncodeFormat.Statement .udpCsumNone := rfl
theorem EncodeFormat.udpCsumFfff : EncodeFormat.Statement .udpCsumFfff := rfl
theorem EncodeFormat.udpCsum (s : Half) : EncodeFormat.Statement (.udpCsum s) := rfl

end Sys2Proof.Laws
end

