-- ==== Sys2Proof/Laws/Step.lean ====
section
/-! SUPPORT. Once and for all, what a step, an engine step and each act of the outside world can do. Later
proofs cite these and do not unfold `step`. -/

namespace Sys2Proof.Machine

/-! ### The engine -/

/-- An engine step that answers: nothing in IDLE, one instruction or the end of the command in BUSY. -/
theorem State.engineStep_next {s t : State} (h : s.engineStep = .next t) :
    (s.phase = .idle ∧ t = s) ∨ ∃ f raw, s.phase = .busy f ∧ s.fetch f = .ok raw ∧
      ((∃ i, decode raw = .instr i ∧ exec i s = .next t)
        ∨ ∃ r, decode raw = .reject r ∧ t = s.finish (rejectOutcome r)) := by
  unfold State.engineStep at h
  split at h
  · next hp => exact .inl ⟨hp, (Host.Outcome.next.inj h).symm⟩
  · next f hp =>
    split at h
    · cases h
    · next raw hf =>
      split at h
      · next i hi => exact .inr ⟨f, raw, hp, hf, .inl ⟨i, hi, h⟩⟩
      · next r hr => exact .inr ⟨f, raw, hp, hf, .inr ⟨r, hr, (Host.Outcome.next.inj h).symm⟩⟩

/-- An engine step that faults: its fetch faults, or its instruction does. -/
theorem State.engineStep_fault {s : State} {e : Fault} (h : s.engineStep = .fault e) :
    ∃ f, s.phase = .busy f ∧ (s.fetch f = .error e
      ∨ ∃ raw i, s.fetch f = .ok raw ∧ decode raw = .instr i ∧ exec i s = .fault e) := by
  unfold State.engineStep at h
  split at h
  · cases h
  · next f hp =>
    split at h
    · next e' hf => exact ⟨f, hp, .inl (by rw [hf, Host.Outcome.fault.inj h])⟩
    · next raw hf =>
      split at h
      · next i hi => exact ⟨f, hp, .inr ⟨raw, i, hf, hi, h⟩⟩
      · cases h

/-- The engine never refuses. -/
theorem State.engineStep_ne_refused (s : State) (r : Refusal) : s.engineStep ≠ .refused r := by
  intro h
  unfold State.engineStep at h
  split at h
  · cases h
  · split at h
    · cases h
    · split at h
      · exact exec_ne_refused _ s r h
      · cases h

/-! ### One step of the machine -/

/-- Where a step goes: to the engine, or to one act of the outside world. -/
theorem step_cases (s : State) :
    (s.env.script = [] ∧ step s = s.engineStep) ∨ ∃ op rest, s.env.script = op :: rest ∧
      ((op = .poll ∧ s.phase.isBusy = true ∧ step s = s.engineStep)
        ∨ (op = .wait ∧ step s = (s.withScript rest).engineStep)
        ∨ (op ≠ .wait ∧ ¬(op = .poll ∧ s.phase.isBusy = true) ∧ step s = (s.withScript rest).act op)) := by
  unfold step State.advance
  cases hs : s.env.script with
  | nil => exact .inl ⟨rfl, rfl⟩
  | cons op rest =>
    refine .inr ⟨op, rest, rfl, ?_⟩
    by_cases h1 : op = .poll ∧ s.phase.isBusy = true
    · exact .inl ⟨h1.1, h1.2, if_pos h1⟩
    · by_cases h2 : op = .wait
      · exact .inr (.inl ⟨h2, (if_neg h1).trans (if_pos h2)⟩)
      · exact .inr (.inr ⟨h2, h1, (if_neg h1).trans (if_neg h2)⟩)

/-- A step with an act of the outside world at the head of the script is that act. -/
theorem step_act {s : State} {op : EnvOp} {rest : List EnvOp} (hs : s.env.script = op :: rest)
    (hp : op ≠ .poll ∨ s.phase.isBusy = false) (hw : op ≠ .wait) : step s = (s.withScript rest).act op := by
  rcases step_cases s with ⟨h, -⟩ | ⟨op', rest', h, h'⟩
  · simp [hs] at h
  · obtain ⟨rfl, rfl⟩ := List.cons.inj (hs.symm.trans h)
    rcases h' with ⟨h1, h2, -⟩ | ⟨h1, -⟩ | ⟨-, -, h3⟩
    · simp [h1, h2] at hp
    · exact absurd h1 hw
    · exact h3

/-! ### The script is no part of what an act reads -/

@[simp] theorem State.withScript_size (s : State) (ops : List EnvOp) (b : Buf) :
    (s.withScript ops).size b = s.size b := by cases b <;> rfl

@[simp] theorem State.withScript_mem (s : State) (ops : List EnvOp) (b : Buf) :
    (s.withScript ops).mem b = s.mem b := by cases b <;> rfl

@[simp] theorem State.withScript_readByte (s : State) (ops : List EnvOp) (b : Buf) (o : Nat) :
    (s.withScript ops).readByte b o = s.readByte b o := State.readByte_congr rfl (by simp) o

@[simp] theorem State.withScript_memRead (s : State) (ops : List EnvOp) (b : Buf) (o n : Nat) :
    (s.withScript ops).memRead b o n = s.memRead b o n :=
  State.memRead_congr (s := s) (t := s.withScript ops) rfl (by simp) o n

@[simp] theorem State.withScript_readReg (s : State) (ops : List EnvOp) (r : Reg) :
    (s.withScript ops).readReg r = s.readReg r := by cases r <;> rfl

@[simp] theorem State.withScript_rxHeld (s : State) (ops : List EnvOp) :
    (s.withScript ops).rxHeld = s.rxHeld := rfl

/-! ### Acts of the outside world -/

/-- A write to CMD: ERR_BUSY, acceptance of one of the three words, or the end with ERR_CMD. -/
theorem State.cmdWrite_cases (s : State) (w : Word) :
    (s.phase.isBusy = true ∧ s.cmdWrite w = { s with status := s.status.setErrBusy })
      ∨ (s.phase = .idle ∧ (w = 0x1 ∨ w = 0x2 ∨ w = 0x3) ∧ s.cmdWrite w = s.accept w)
      ∨ (s.phase = .idle ∧ ¬(w = 0x1 ∨ w = 0x2 ∨ w = 0x3)
          ∧ s.cmdWrite w = (s.accept w).finish .errCmd) := by
  unfold State.cmdWrite
  cases hp : s.phase with
  | busy f => exact .inl ⟨rfl, rfl⟩
  | idle =>
    refine .inr ?_
    by_cases h1 : w = 0x1
    · subst h1; exact .inl ⟨rfl, .inl rfl, rfl⟩
    · by_cases h2 : w = 0x2
      · subst h2; exact .inl ⟨rfl, .inr (.inl rfl), rfl⟩
      · by_cases h3 : w = 0x3
        · subst h3; exact .inl ⟨rfl, .inr (.inr rfl), rfl⟩
        · have hd : decode (.c w) = .reject .illegalCommand :=
            (if_neg h1).trans ((if_neg h2).trans (if_neg h3))
          exact .inr ⟨rfl, by tauto, by simp [Phase.isBusy, hd]⟩

/-- A register write that answers. -/
theorem State.writeReg_next {s t : State} {r : Reg} {v : Word} (h : s.writeReg r v = .next t) :
    (r = .cmd ∧ t = s.cmdWrite v)
      ∨ (r = .status ∧ t = { s with status := s.status.hostWrite v })
      ∨ (r ≠ .cmd ∧ r ≠ .status ∧ ¬(r.writeNeedsIdle = true ∧ s.phase.isBusy = true)
          ∧ t = { s with regs := s.regs.hostWrite r v }) := by
  unfold State.writeReg at h
  split_ifs at h with h1 h2 h3
  · exact .inl ⟨h1, (Host.Outcome.next.inj h).symm⟩
  · exact .inr (.inl ⟨h2, (Host.Outcome.next.inj h).symm⟩)
  · exact .inr (.inr ⟨h1, h2, by simpa using h3, (Host.Outcome.next.inj h).symm⟩)

/-- A register write never faults. -/
theorem State.writeReg_ne_fault (s : State) (r : Reg) (v : Word) (e : Fault) : s.writeReg r v ≠ .fault e := by
  unfold State.writeReg
  split_ifs <;> simp

/-- A window write that answers: in IDLE, inside the buffer, and not over a frame still held. -/
theorem State.hostWriteBytes_next {s t : State} {b : Buf} {o : Nat} {bs : List Byte}
    (h : s.hostWriteBytes b o bs = .next t) :
    s.phase = .idle ∧ o + bs.length ≤ s.size b ∧ (b = .rx → s.rxHeld = false)
      ∧ t = s.setMem b ((s.mem b).putBytes o bs) := by
  unfold State.hostWriteBytes at h
  split_ifs at h with h1 h2 h3
  refine ⟨Phase.isBusy_eq_false (by simpa using h1), by omega, fun hb => ?_, (Host.Outcome.next.inj h).symm⟩
  simpa [hb] using h3

/-- A window write never faults. -/
theorem State.hostWriteBytes_ne_fault (s : State) (b : Buf) (o : Nat) (bs : List Byte) (e : Fault) :
    s.hostWriteBytes b o bs ≠ .fault e := by
  unfold State.hostWriteBytes
  split_ifs <;> simp

/-- What a platform address names depends on the parameters only. -/
theorem State.resolve_congr {s t : State} (h : t.cfg = s.cfg) (addr : Nat) (w : Width) :
    t.resolve addr w = s.resolve addr w := by
  cases s; cases t; cases h; rfl

@[simp] theorem inSpan_iff {a b n : Nat} : inSpan a b n = true ↔ b ≤ a ∧ a < b + n := by
  simp [inSpan]

@[simp] theorem State.winBase_rx (s : State) : s.winBase .rx = s.cfg.rxWinBase + s.cfg.frameBase := rfl

@[simp] theorem State.winBase_tx (s : State) : s.winBase .tx = s.cfg.txWinBase := rfl

/-- An address of a window that no earlier window holds is an access to that window (20_memory R71, R72). -/
theorem State.resolve_rx {s : State} {addr : Nat} (w : Width) (h1 : ¬inSpan addr s.cfg.regBase 0x40 = true)
    (h2 : inSpan addr (s.winBase .rx) (s.size .rx) = true) :
    s.resolve addr w = s.windowTarget .rx addr (addr - s.winBase .rx) w :=
  (if_neg h1).trans (if_pos h2)

theorem State.resolve_tx {s : State} {addr : Nat} (w : Width) (h1 : ¬inSpan addr s.cfg.regBase 0x40 = true)
    (h2 : ¬inSpan addr (s.winBase .rx) (s.size .rx) = true)
    (h3 : inSpan addr (s.winBase .tx) (s.size .tx) = true) :
    s.resolve addr w = s.windowTarget .tx addr (addr - s.winBase .tx) w :=
  (if_neg h1).trans ((if_neg h2).trans (if_pos h3))

/-- An address in no window reaches nothing (log 13). -/
theorem State.resolve_unmapped {s : State} {addr : Nat} (w : Width) (h1 : ¬inSpan addr s.cfg.regBase 0x40 = true)
    (h2 : ¬inSpan addr (s.winBase .rx) (s.size .rx) = true)
    (h3 : ¬inSpan addr (s.winBase .tx) (s.size .tx) = true) :
    s.resolve addr w = .error (.unmappedHostAddress addr) :=
  (if_neg h1).trans ((if_neg h2).trans (if_neg h3))

/-- A window that a platform address reaches holds the whole access (20_memory R80). -/
theorem State.resolve_window {s : State} {addr : Nat} {w : Width} {b : Buf} {off : Nat}
    (h : s.resolve addr w = .ok (.window b off)) : w ≠ .b64 ∧ off + w.bytes ≤ s.size b := by
  have key : ∀ b' o', s.windowTarget b' addr o' w = .ok (.window b off) →
      w ≠ .b64 ∧ off + w.bytes ≤ s.size b := by
    intro b' o' h'
    unfold State.windowTarget at h'
    split_ifs at h' with h1 h2
    simp only [Except.ok.injEq, Target.window.injEq] at h'
    obtain ⟨rfl, rfl⟩ := h'
    exact ⟨h1, by omega⟩
  unfold State.resolve at h
  split_ifs at h with h1 h2 h3
  · split at h <;> cases h
  · exact key _ _ h
  · exact key _ _ h

@[simp] theorem State.withScript_resolve (s : State) (ops : List EnvOp) (addr : Nat) (w : Width) :
    (s.withScript ops).resolve addr w = s.resolve addr w := State.resolve_congr rfl addr w

/-- A platform write that answers is a register write or a window write. -/
theorem State.hostStore_next {s t : State} {addr : Nat} {w : Width} {v : Word}
    (h : s.hostStore addr w v = .next t) :
    (∃ r, s.resolve addr w = .ok (.reg r) ∧ s.writeReg r v = .next t)
      ∨ ∃ b o, s.resolve addr w = .ok (.window b o)
          ∧ s.hostWriteBytes b o (splitBytes s.cfg.hostEndian w v) = .next t := by
  unfold State.hostStore at h
  split at h
  · cases h
  · next r hr => exact .inl ⟨r, hr, h⟩
  · next b o hr => exact .inr ⟨b, o, hr, h⟩

/-- A platform read that answers only records a value (20_memory R82). -/
theorem State.hostLoad_next {s t : State} {addr : Nat} {w : Width} (h : s.hostLoad addr w = .next t) :
    ∃ v, t = s.logRead (.load addr w) v := by
  unfold State.hostLoad at h
  split at h
  · cases h
  · exact ⟨_, (Host.Outcome.next.inj h).symm⟩
  · split at h
    · cases h
    · split at h
      · cases h
      · exact ⟨_, (Host.Outcome.next.inj h).symm⟩

/-- The adapter's take that answers. -/
theorem State.adapterTake_next {s t : State} (h : s.adapterTake = .next t) :
    (s.ports.txPending = none ∧ t = s) ∨ ∃ len bs, s.ports.txPending = some len ∧ s.phase = .idle
      ∧ s.memRead .rx 0 len.toNat = .ok bs
      ∧ t = { s with
          ports := { s.ports with txPending := none }, env := { s.env with sent := s.env.sent ++ [bs] } } := by
  unfold State.adapterTake at h
  split at h
  · next hp => exact .inl ⟨hp, (Host.Outcome.next.inj h).symm⟩
  · next len hp =>
    split at h
    · cases h
    · next hb =>
      split at h
      · cases h
      · next bs hr =>
        exact .inr ⟨len, bs, hp, Phase.isBusy_eq_false (by simpa using hb), hr,
          (Host.Outcome.next.inj h).symm⟩

/-- The UDP consumer's take that answers. -/
theorem State.udpTake_next {s t : State} (h : s.udpTake = .next t) :
    (s.ports.udpPending = none ∧ t = s) ∨ ∃ off len bs, s.ports.udpPending = some (off, len)
      ∧ s.phase = .idle ∧ s.memRead .rx off.toNat len.toNat = .ok bs
      ∧ t = { s with
          ports := { s.ports with udpPending := none }
          env := { s.env with delivered := s.env.delivered ++ [bs] } } := by
  unfold State.udpTake at h
  split at h
  · next hp => exact .inl ⟨hp, (Host.Outcome.next.inj h).symm⟩
  · next off len hp =>
    split at h
    · cases h
    · next hb =>
      split at h
      · cases h
      · next bs hr =>
        exact .inr ⟨off, len, bs, hp, Phase.isBusy_eq_false (by simpa using hb), hr,
          (Host.Outcome.next.inj h).symm⟩

/-- The register at an offset is the one whose offset it is (10_state R33). -/
theorem Reg.at?_eq_some {off : Nat} {r : Reg} : Reg.at? off = some r ↔ r.offset = off := by
  constructor
  · intro h; simpa using List.find?_some h
  · rintro rfl; cases r <;> rfl

end Sys2Proof.Machine
end

