-- ==== Sys2Proof/Tests/Slice0.lean ====
section
/-! SUPPORT. The model's own tests. Expected values are those of spec/95_test_vectors.md, or are worked out by
hand from the rule a test names. The second half shows, for each statement with hypotheses, a concrete
state and operands that meet them. -/

namespace Sys2Proof.Tests

open Sys2Proof.Machine

/-! ### Helpers -/

/-- A test of the next state of an answer. -/
def onNext (r : Result) (p : State → Bool) : Bool :=
  match r with
  | .next t => p t
  | .fault _ => false
  | .refused _ => false

/-- The answer is the refusal `e`. -/
def refusedWith (r : Result) (e : Refusal) : Bool :=
  match r with
  | .next _ => false
  | .fault _ => false
  | .refused e' => decide (e' = e)

/-- The answer is the fault `e`. -/
def faultsWith (r : Result) (e : Fault) : Bool :=
  match r with
  | .next _ => false
  | .fault e' => decide (e' = e)
  | .refused _ => false

theorem exists_next {r : Result} {p : State → Bool} (h : onNext r p = true) : ∃ t, r = .next t ∧ p t = true := by
  cases r with
  | next t => exact ⟨t, rfl, h⟩
  | fault e => cases h
  | refused e => cases h

/-- The frame of V-ARP-1, and its reply. -/
def arp1 : List Byte :=
  [0xff, 0xff, 0xff, 0xff, 0xff, 0xff, 0x02, 0xaa, 0xbb, 0xcc, 0xdd, 0xee, 0x08, 0x06, 0x00, 0x01,
    0x08, 0x00, 0x06, 0x04, 0x00, 0x01, 0x02, 0xaa, 0xbb, 0xcc, 0xdd, 0xee, 0xc0, 0xa8, 0x01, 0x0a,
    0x00, 0x00, 0x00, 0x00, 0x00, 0x00, 0xc0, 0xa8, 0x01, 0x32]

def arp1Reply : List Byte :=
  [0x02, 0xaa, 0xbb, 0xcc, 0xdd, 0xee, 0x02, 0x11, 0x22, 0x33, 0x44, 0x55, 0x08, 0x06, 0x00, 0x01,
    0x08, 0x00, 0x06, 0x04, 0x00, 0x02, 0x02, 0x11, 0x22, 0x33, 0x44, 0x55, 0xc0, 0xa8, 0x01, 0x32,
    0x02, 0xaa, 0xbb, 0xcc, 0xdd, 0xee, 0xc0, 0xa8, 0x01, 0x0a]

/-- The frame of V-ICMP-9, and its reply. -/
def icmp9 : List Byte :=
  [0x02, 0x11, 0x22, 0x33, 0x44, 0x55, 0x02, 0xaa, 0xbb, 0xcc, 0xdd, 0xee, 0x08, 0x00, 0x45, 0x00,
    0x00, 0x1c, 0x1c, 0x46, 0x40, 0x00, 0x40, 0x01, 0x9b, 0x0e, 0xc0, 0xa8, 0x01, 0x0a, 0xc0, 0xa8,
    0x01, 0x32, 0x08, 0x00, 0xf7, 0xfd, 0x00, 0x01, 0x00, 0x01]

def icmp9Reply : List Byte :=
  [0x02, 0xaa, 0xbb, 0xcc, 0xdd, 0xee, 0x02, 0x11, 0x22, 0x33, 0x44, 0x55, 0x08, 0x00, 0x45, 0x00,
    0x00, 0x1c, 0x1c, 0x46, 0x40, 0x00, 0x40, 0x01, 0x9b, 0x0e, 0xc0, 0xa8, 0x01, 0x32, 0xc0, 0xa8,
    0x01, 0x0a, 0x00, 0x00, 0xff, 0xfd, 0x00, 0x01, 0x00, 0x01]

/-- The frame of V-UDP-2, and the pseudo-header it leaves in TX. -/
def udp2 : List Byte :=
  [0x02, 0x11, 0x22, 0x33, 0x44, 0x55, 0x02, 0xaa, 0xbb, 0xcc, 0xdd, 0xee, 0x08, 0x00, 0x45, 0x00,
    0x00, 0x22, 0x1c, 0x46, 0x40, 0x00, 0x40, 0x11, 0x9a, 0xf8, 0xc0, 0xa8, 0x01, 0x0a, 0xc0, 0xa8,
    0x01, 0x32, 0x7a, 0x51, 0x7a, 0x51, 0x00, 0x0e, 0xb5, 0xcb, 0x44, 0x43, 0x4c, 0x4f, 0x41, 0x44]

def udp2Tx : List Byte :=
  [0xc0, 0xa8, 0x01, 0x0a, 0xc0, 0xa8, 0x01, 0x32, 0x00, 0x11, 0x00, 0x0e, 0x7a, 0x51, 0x7a, 0x51,
    0x00, 0x0e, 0x00, 0x00]

/-- The frame of V-UDP-3: the computed checksum is 0x0000 and the stored one 0xFFFF. -/
def udp3 : List Byte := ((setHalf udp2 40 0xFFFF).set 46 0xf7).set 47 0x0f

/-- The engine at the encoding `f` of a PROC of the frame `rx`, latched with the length `len`. -/
def procAt (f : Format) (rx tx : List Byte) (len : Half) : State :=
  { State.reset with
    phase := .busy f
    lat := { Latches.reset with op := 0x1, frameLen := len, devIp := 0xC0A80132 }
    rx := Memory.putBytes [] 0 rx
    tx := Memory.putBytes [] 0 tx }

/-- The buffers of 95_test_vectors L2.2, and a latched checksum command. -/
def csumAt (op : BitVec 4) (a b : Region) (odd : Bool) : State :=
  { State.reset with
    phase := .busy .c
    lat := { Latches.reset with op := op, a := a, b := b, odd := odd }
    rx := Memory.putBytes (Memory.putBytes [] 0 [0x00, 0x01, 0xf2, 0x03, 0xf4, 0xf5, 0xf6, 0xf7, 0xff, 0xff])
      1530 [0x11, 0x22, 0x33, 0x44, 0x55, 0x66]
    tx := Memory.putBytes (Memory.putBytes [] 0 [0xf4, 0xf5, 0xf6, 0xf7]) 60 [0x12, 0x34, 0x56, 0x78] }

/-- A state whose outside world is about to do `ops`. -/
def doing (s : State) (ops : List EnvOp) : State := s.withScript ops

/-- The outcome an answer ends with is `code`. -/
def endsWith (r : Result) (code : OutcomeCode) : Bool :=
  onNext r (fun t => decide (t.phase = .idle ∧ t.status.done = true ∧ t.status.outcome = code))

/-! ### Well-formedness -/

theorem test_wf_refuses_zero_checksum : (Instr.udpCsum 0x0000).wf = false := by decide
theorem test_wf_refuses_ones_checksum : (Instr.udpCsum 0xFFFF).wf = false := by decide
theorem test_wf_accepts_other_checksum : (Instr.udpCsum 0xB5CB).wf = true := by decide

/-! ### Decoding: words written out from the spec -/

/-- 30_encoding R100, R101: OP in bits 3..0, RSV = 0. -/
theorem test_decode_commands :
    decode (.c 0b00000000000000000000000000000001) = .instr .proc
      ∧ decode (.c 0b00000000000000000000000000000010) = .instr .csum
      ∧ decode (.c 0b00000000000000000000000000000011) = .instr .csum2 := by decide

/-- 30_encoding R102 and V-CMD-1 to V-CMD-5. -/
theorem test_decode_illegal_commands :
    [(0x00000000 : Word), 0x00000004, 0x0000000F, 0x00000011, 0x80000002].map (fun w => decode (.c w))
      = List.replicate 5 (.reject .illegalCommand) := by decide

/-- 30_encoding R106, V-DSP-5, V-DSP-6. -/
theorem test_decode_etherType :
    decode (.ethClass 0b0000100000000110) = .instr .arpReq
      ∧ decode (.ethClass 0b0000100000000000) = .instr .ipv4Unicast
      ∧ decode (.ethClass 0x86DD) = .reject .etherType
      ∧ decode (.ethClass 0x0801) = .reject .etherType := by decide

/-- 30_encoding R113, V-IP-11. -/
theorem test_decode_protocol :
    decode (.ipProto 0b00000001) = .instr .icmp ∧ decode (.ipProto 0b00010001) = .instr .udp
      ∧ decode (.ipProto 6) = .reject .ipProtocol := by decide

/-- 30_encoding R114, V-ICMP-2, V-ICMP-3. -/
theorem test_decode_icmpType :
    decode (.icmpType 0b00001000) = .instr .icmpEchoReq ∧ decode (.icmpType 0) = .reject .icmpType
      ∧ decode (.icmpType 13) = .reject .icmpType := by decide

/-- 30_encoding R115. -/
theorem test_decode_udpCsum :
    decode (.udpCsum 0b0000000000000000) = .instr .udpCsumNone
      ∧ decode (.udpCsum 0b1111111111111111) = .instr .udpCsumFfff
      ∧ decode (.udpCsum 0b1011010111001011) = .instr (.udpCsum 0xB5CB) := by decide

/-- What no encoding of its width has, and a value too wide for its width. -/
theorem test_decodeTableWord_none :
    decodeTableWord 32 0x00000000 = none ∧ decodeTableWord 8 0x02 = none ∧ decodeTableWord 24 0x01 = none
      ∧ decodeTableWord 8 0x101 = none := by decide

/-! ### Checksum arithmetic -/

/-- V-CK-1, V-CK-4, V-CK-7, V-CK-8, V-CK-9, V-CK-11. -/
theorem test_inet :
    inet [] = 0xFFFF ∧ inet [0xFFFF] = 0x0000 ∧ inet [0xFFFF, 0x0001] = 0xFFFE
      ∧ inet [0x0001, 0xF203, 0xF4F5, 0xF6F7] = 0x220D ∧ inet [0x0001, 0xF203, 0xF4F5, 0xF600] = 0x2304
      ∧ inet [0xFFFE, 0x0001] = 0x0000 := by decide

/-! ### One step of each instruction -/

/-- V-CS-2: an odd byte. -/
theorem test_csum_odd : onNext (step (csumAt 0x2 ⟨.rx, 0, 3⟩ Region.zero true))
    (fun t => decide (t.regs.csResult = 0x2304 ∧ t.status.outcome = .csumOk)) = true := by decide

/-- V-CS-8: one byte past the end. -/
theorem test_csum_range : endsWith (step (csumAt 0x2 ⟨.rx, 1530, 3⟩ Region.zero true)) .errRange = true := by
  decide

/-- V-CS-15: the odd byte belongs to region B. -/
theorem test_csum2_odd : onNext (step (csumAt 0x3 ⟨.rx, 0, 2⟩ ⟨.rx, 4, 1⟩ true))
    (fun t => decide (t.regs.csResult = 0x2304 ∧ t.status.outcome = .csumOk)) = true := by decide

/-- V-CS-20: region B out of range. -/
theorem test_csum2_range : endsWith (step (csumAt 0x3 ⟨.rx, 0, 1⟩ ⟨.tx, 64, 0⟩ true)) .errRange = true := by
  decide

/-- V-DSP-9 (ARP-REQ unicast to DEVICE_MAC): ends DROP_CLASS. -/
theorem test_proc_class :
    endsWith (step (procAt .c ([0x02, 0x11, 0x22, 0x33, 0x44, 0x55] ++ arp1.drop 6) [] 42)) .dropClass = true := by
  decide

/-- V-DSP-4: FRAME_LEN past RX. -/
theorem test_proc_length : endsWith (step (procAt .c icmp9 [] 1537)) .dropFrameLen = true := by decide

/-- V-ARP-1: the reply and its event. -/
theorem test_arpReq_reply : onNext (step (procAt .ethClass arp1 [] 42))
    (fun t => decide (t.memRead .rx 0 42 = .ok arp1Reply ∧ t.ports.events = [.transmit .rx 42])
      && decide (t.readReg .txInfo = 0x0000002A)) = true := by decide

/-- V-ARP-11's order: a wrong hardware space wins over a wrong target. -/
theorem test_arpReq_order :
    endsWith (step (procAt .ethClass ((arp1.set 15 0x06).set 41 0x33) [] 42)) .dropArpHtype = true := by decide

/-- V-IP-6 (bit 15 set is no fragment), its header checksum regenerated by hand: 0x9B0E - 0x4000 = 0x5B0E. -/
theorem test_ipv4_bit15 : onNext (step (procAt .ethClass (setHalf (icmp9.set 20 0x80) 24 0x5B0E) [] 42))
    (fun t => decide (t.phase = .busy .ipProto)) = true := by decide

/-- V-IP-9: a stale checksum. -/
theorem test_ipv4_checksum : endsWith (step (procAt .ethClass (icmp9.set 22 63) [] 42)) .dropIpCsum = true := by
  decide

/-- V-ICMP-6: FRAME_LEN one byte short of the IPv4 packet. -/
theorem test_icmp_length : endsWith (step (procAt .ipProto icmp9 [] 41)) .dropIcmpLen = true := by decide

/-- V-ICMP-2: type 0. -/
theorem test_icmp_type : endsWith (step (procAt .ipProto (icmp9.set 34 0) [] 42)) .dropIcmpType = true := by
  decide

/-- V-ICMP-9: the reply. -/
theorem test_icmpEchoReq_reply : onNext (step (procAt .icmpType icmp9 [] 42))
    (fun t => decide (t.memRead .rx 0 42 = .ok icmp9Reply ∧ t.ports.events = [.transmit .rx 42])) = true := by
  decide

/-- V-ICMP-5: a stored 0xFFFF never verifies. -/
theorem test_icmpEchoReq_checksum :
    endsWith (step (procAt .icmpType (setHalf icmp9 36 0xFFFF) [] 42)) .dropIcmpCsum = true := by decide

/-- V-UDP-2: the pseudo-header in TX. -/
theorem test_udp_pseudoHeader : onNext (step (procAt .ipProto udp2 [] 48))
    (fun t => decide (t.memRead .tx 0 20 = .ok udp2Tx ∧ t.phase = .busy .udpCsum)) = true := by decide

/-- V-UDP-10: UDP length 15 in an IPv4 payload of 14 bytes. -/
theorem test_udp_length : endsWith (step (procAt .ipProto (udp2.set 39 15) [] 48)) .dropUdpLen = true := by decide

/-- V-UDP-7: field 0 passes whatever the payload. -/
theorem test_udpCsumNone : onNext (step (procAt .udpCsum (setHalf (udp2.set 47 0x45) 40 0x0000) udp2Tx 48))
    (fun t => decide (t.ports.events = [.udpAccept 34 14]) && decide (t.readReg .udpInfo = 0x000E0022)) = true := by
  decide

/-- V-UDP-3: a stored 0xFFFF for a computed 0x0000. -/
theorem test_udpCsumFfff_accepts :
    endsWith (step (procAt .udpCsum udp3 udp2Tx 48)) .udpHandoff = true := by decide

/-- V-UDP-6: a stored 0xFFFF for another computed value. -/
theorem test_udpCsumFfff_drops :
    endsWith (step (procAt .udpCsum (setHalf udp2 40 0xFFFF) udp2Tx 48)) .dropUdpCsum = true := by decide

/-- V-UDP-2. -/
theorem test_udpCsum_accepts : onNext (step (procAt .udpCsum udp2 udp2Tx 48))
    (fun t => decide (t.ports.events = [.udpAccept 34 14]) && decide (t.readReg .udpInfo = 0x000E0022)) = true := by
  decide

/-- V-UDP-5: off by one. -/
theorem test_udpCsum_drops :
    endsWith (step (procAt .udpCsum (setHalf udp2 40 0xB5CC) udp2Tx 48)) .dropUdpCsum = true := by decide

/-! ### Placed words run -/

/-- A command word of the table, and a wire word of each width, placed after reset. -/
theorem test_withFetchWord :
    endsWith (step (State.reset.withFetchWord 32 0x00000002)) .csumOk = true
      ∧ endsWith (step (State.reset.withFetchWord 32 0x00000001)) .dropFrameLen = true
      ∧ onNext (step (State.reset.withFetchWord 16 0x0800)) (fun _ => true) = true
      ∧ endsWith (step (State.reset.withFetchWord 16 0x0000)) .udpHandoff = true
      ∧ onNext (step (State.reset.withFetchWord 8 0x11)) (fun t => decide (t.phase = .busy .udpCsum)) = true := by
  decide

/-! ### Host accesses -/

/-- V-CMD-3: STATUS after an illegal command word. -/
theorem test_status_errCmd : onNext (step (doing State.reset [.wr .cmd 0x0000000F]))
    (fun t => decide (t.readReg .status = 0x000F0202)) = true := by decide

/-- V-CMD-9: ERR_BUSY is written by a CMD write while BUSY. -/
theorem test_status_errBusy : onNext (step (doing (procAt .c arp1 [] 42) [.wr .cmd 0x00000002]))
    (fun t => decide (t.readReg .status = 0x00000005)) = true := by decide

/-- 20_memory R77 for HOST_ENDIAN = little: the low byte at the lowest address, in frame byte 0. -/
theorem test_window_little : onNext (step (doing State.reset [.store 0x10010002 .b32 0x44332211]))
    (fun t => decide (t.memRead .rx 0 4 = .ok [0x11, 0x22, 0x33, 0x44])) = true := by decide

/-- 20_memory R77 for HOST_ENDIAN = big. -/
theorem test_window_big : onNext (step { doing State.reset [.store 0x10020000 .b16 0x1122] with
      cfg := { Params.reference with hostEndian := .big } })
    (fun t => decide (t.memRead .tx 0 2 = .ok [0x11, 0x22])) = true := by decide

/-- 20_memory R93, U1: a byte that nothing has written. -/
theorem test_unwritten_faults :
    faultsWith (step (doing State.reset [.load 0x10010002 .b8])) (.unwrittenByte .rx 0) = true := by decide

/-- The buffers of reset are in canonical form. -/
theorem test_reset_memory : State.reset.rx.wf ∧ State.reset.tx.wf := by decide

/-- 30_encoding R132: the pseudo-instruction operands. -/
theorem test_pseudo_operands :
    regionOperand .tx 0x003C = 0x0001003C ∧ scriptSetIp 192 168 1 50 = [.wr .devIp 0xC0A80132] := by decide

/-! ### Witnesses: states and operands that meet the hypotheses of each statement, at the bounds of each clause -/

/-- The first 14 or the first `n` bytes of RX are those of `f`. -/
def rxHolds (s : State) (n : Nat) (f : List Byte) : Bool := decide (s.memRead .rx 0 n = .ok f)

theorem witness_DecodeEncodeAgree :
    (Instr.udpCsum 0x0001).wf = true ∧ (Instr.udpCsum 0xFFFE).wf = true
      ∧ decode (.udpCsum 0x0001) = .instr (.udpCsum 0x0001) ∧ encode (.udpCsum 0xFFFE) = encode (.udpCsum 0xFFFE) := by
  decide

theorem witness_IllegalCommandWords :
    [(0x00000000 : Word), 0x00000004, 0x00000011, 0xFFFFFFF3].all (fun w =>
      decide ((doing State.reset [.wr .cmd w]).phase = .idle
        ∧ (doing State.reset [.wr .cmd w]).env.script = .wr .cmd w :: []
        ∧ decode (.c w) = .reject .illegalCommand)) = true := by decide

theorem witness_AccumulatorClosedForm :
    (List.replicate 3 (0xFFFF : Half)).length ≤ 65537 ∧ ocsum (List.replicate 3 0xFFFF) = 0xFFFF := by decide

theorem witness_FoldedSumLaws :
    [(0x0001 : Half), 0xF203].Perm [0xF203, 0x0001]
      ∧ (procAt .c [0x12, 0x34, 0x00] [] 3).words .rx 0 1 false = .ok [0x1234]
      ∧ (procAt .c [0x12, 0x34, 0x00] [] 3).readByte .rx (0 + 2 * 1) = .ok 0x00
      ∧ [(0x0001 : Half)].length = [(0xF203 : Half)].length := by decide

theorem witness_RegionWordsAreBytePairs :
    (procAt .c [0x12, 0x34, 0x56] [] 3).memRead .rx 0 (2 * 1 + true.toNat) = .ok [0x12, 0x34, 0x56]
      ∧ (procAt .c [] [] 3).memRead .rx 1536 (2 * 0 + false.toNat) = .ok [] := by decide

/-- The region of zeros, and V-RT-2 with its checksum stored. -/
theorem witness_ReceivedMessageLaw :
    (procAt .c [0x00, 0x00, 0xFF, 0xFF] [] 4).wordsZ .rx 0 2 false 2 = .ok [0x0000, 0x0000]
      ∧ (procAt .c [0x00, 0x00, 0xFF, 0xFF] [] 4).be16 .rx 2 = .ok 0xFFFF
      ∧ (procAt .c [0x08, 0, 0x96, 0xfd, 0, 1, 0, 1, 0x61] [] 9).wordsZ .rx 0 4 true 2
          = .ok [0x0800, 0x0000, 0x0001, 0x0001, 0x6100]
      ∧ (procAt .c [0x08, 0, 0x96, 0xfd, 0, 1, 0, 1, 0x61] [] 9).be16 .rx 2 = .ok 0x96fd := by decide

/-- V-RT-2's region, and a field at the very end of TX. -/
theorem witness_GenerateThenVerify :
    (procAt .c [0x08, 0, 0, 0, 0, 1, 0, 1, 0x61] [] 9).memRead .rx 0 (2 * 4 + true.toNat)
        = .ok [0x08, 0, 0, 0, 0, 1, 0, 1, 0x61]
      ∧ 2 + 2 ≤ (procAt .c [] [] 9).size .rx ∧ 62 + 2 ≤ (procAt .c [] [] 9).size .tx
      ∧ (procAt .c [] [] 9).memRead .tx 0 (2 * 0 + false.toNat) = .ok [] := by decide

/-- V-CS-2, and V-CS-7 at the end of RX. -/
theorem witness_CsumComputesRegion :
    ∀ p ∈ [(csumAt 0x2 ⟨.rx, 0, 3⟩ Region.zero true, [(0x00 : Byte), 0x01, 0xf2, 0x03, 0xf4, 0xf5, 0xf6]),
        (csumAt 0x2 ⟨.rx, 1530, 3⟩ Region.zero false, [0x11, 0x22, 0x33, 0x44, 0x55, 0x66])],
      p.1.lat.a.off.toNat + 2 * p.1.lat.a.n.toNat + p.1.lat.odd.toNat ≤ p.1.size p.1.lat.a.sel
        ∧ p.1.memRead .rx p.1.lat.a.off.toNat (2 * p.1.lat.a.n.toNat + p.1.lat.odd.toNat) = .ok p.2 := by decide

/-- V-CS-19: region B is the last byte of TX. -/
theorem witness_Csum2ComputesBothRegions :
    ∀ s ∈ [csumAt 0x3 ⟨.rx, 0, 1⟩ ⟨.tx, 63, 0⟩ true],
    s.lat.a.off.toNat + 2 * s.lat.a.n.toNat ≤ s.size s.lat.a.sel
      ∧ s.lat.b.off.toNat + 2 * s.lat.b.n.toNat + s.lat.odd.toNat ≤ s.size s.lat.b.sel
      ∧ s.memRead .rx 0 (2 * 1) = .ok [0x00, 0x01] ∧ s.memRead .tx 63 (2 * 0 + true.toNat) = .ok [0x78] := by
  decide

/-- V-CS-8, V-CS-12, V-CS-18 and V-CS-20. -/
theorem witness_OutOfRangeRegions :
    (∀ s ∈ [csumAt 0x2 ⟨.rx, 1530, 3⟩ Region.zero true, csumAt 0x2 ⟨.rx, 0xFFFF, 0xFFFF⟩ Region.zero true],
        s.inRange s.lat.a s.lat.odd = false)
      ∧ (∀ s ∈ [csumAt 0x3 ⟨.tx, 62, 2⟩ ⟨.rx, 0, 1⟩ false], s.inRange s.lat.a false = false)
      ∧ ∀ s ∈ [csumAt 0x3 ⟨.rx, 0, 1⟩ ⟨.tx, 64, 0⟩ true],
          s.inRange s.lat.a false = true ∧ s.inRange s.lat.b s.lat.odd = false := by decide

/-- One frame for each check of PROC and one that passes all; a length of 13 needs no byte. -/
theorem witness_ProcClassifiesFrame :
    endsWith (exec .proc (procAt .c [] [] 13)) .dropFrameLen = true
      ∧ (∀ p ∈ [(icmp9.set 13 0x01, OutcomeCode.dropEthertype), (icmp9.set 5 0x56, .dropNotOurs),
          (List.replicate 6 0xff ++ icmp9.drop 6, .dropClass),
          ([0x02, 0x11, 0x22, 0x33, 0x44, 0x55] ++ arp1.drop 6, .dropClass)],
        rxHolds (procAt .c (p.1.take 14) [] 14) 14 (p.1.take 14) = true
          ∧ endsWith (exec .proc (procAt .c (p.1.take 14) [] 14)) p.2 = true)
      ∧ ∀ f ∈ [icmp9.take 14, arp1.take 14], rxHolds (procAt .c f [] 14) 14 f = true
          ∧ onNext (exec .proc (procAt .c f [] 14)) (fun t => decide (t.phase = .busy .ethClass)) = true := by
  decide

/-- One frame for each check of the ARP responder and one that passes all; a length of 41 needs no byte. -/
theorem witness_ArpRequestAnswered :
    endsWith (exec .arpReq (procAt .ethClass [] [] 41)) .dropArpLen = true
      ∧ (∀ p ∈ [(arp1.set 15 0x06, OutcomeCode.dropArpHtype), (setHalf arp1 16 0x86DD, .dropArpPtype),
          (setHalf arp1 20 0x0101, .dropArpOper), (arp1.set 41 0x33, .dropArpTarget), (arp1, .arpReplyTx)],
        rxHolds (procAt .ethClass p.1 [] 42) 42 p.1 = true
          ∧ endsWith (exec .arpReq (procAt .ethClass p.1 [] 42)) p.2 = true)
      ∧ ∀ s ∈ [procAt .ethClass arp1 [] 42],
          endsWith (exec .arpReq { s with lat := { s.lat with devIp := 0 } }) .dropArpNoIp = true := by decide

/-- One frame for each check of the IPv4 validator and one that passes all; a length of 33 needs no byte. -/
theorem witness_Ipv4ValidatorChecks :
    endsWith (exec .ipv4Unicast (procAt .ethClass [] [] 33)) .dropIpLen = true
      ∧ (∀ p ∈ [(setHalf icmp9 20 0x2000, OutcomeCode.dropIpFrag), (icmp9.set 14 0x44, .dropIpIhl),
          (icmp9.set 14 0x4F, .dropIpIhl), (icmp9.set 22 63, .dropIpCsum),
          (setHalf (icmp9.set 23 6) 24 0x9b09, .dropIpProto)],
        rxHolds (procAt .ethClass p.1 [] 42) 42 p.1 = true
          ∧ endsWith (exec .ipv4Unicast (procAt .ethClass p.1 [] 42)) p.2 = true)
      ∧ rxHolds (procAt .ethClass icmp9 [] 42) 42 icmp9 = true
      ∧ onNext (exec .ipv4Unicast (procAt .ethClass icmp9 [] 42)) (fun t => decide (t.phase = .busy .ipProto)) = true := by
  decide

/-- A total length of 27, a frame one byte short, a type that is not 8, and a frame that passes. -/
theorem witness_IcmpStageChecks :
    (∀ p ∈ [(icmp9.set 17 27, (42 : Half), OutcomeCode.dropIcmpLen), (icmp9.take 41, 41, .dropIcmpLen),
        (icmp9.set 34 0, 42, .dropIcmpType)],
      34 ≤ p.2.1.toNat ∧ rxHolds (procAt .ipProto p.1 [] p.2.1) p.2.1.toNat p.1 = true
        ∧ endsWith (exec .icmp (procAt .ipProto p.1 [] p.2.1)) p.2.2 = true)
      ∧ rxHolds (procAt .ipProto icmp9 [] 42) 42 icmp9 = true
      ∧ onNext (exec .icmp (procAt .ipProto icmp9 [] 42)) (fun t => decide (t.phase = .busy .icmpType)) = true := by
  decide

/-- V-ICMP-9, whose ICMP message has the least length, with its own checksum and a wrong one. -/
theorem witness_EchoRequestAnswered :
    ∀ p ∈ [(icmp9, true), (setHalf icmp9 36 0xFFFF, false)],
      rxHolds (procAt .icmpType p.1 [] 42) 42 p.1 = true ∧ 5 ≤ frameIhl p.1
        ∧ 4 * frameIhl p.1 + 8 ≤ frameTotalLen p.1 ∧ 14 + frameTotalLen p.1 ≤ 42
        ∧ verifies p.1 (14 + 4 * frameIhl p.1) (frameTotalLen p.1 - 4 * frameIhl p.1) (14 + 4 * frameIhl p.1 + 2)
            = p.2 := by decide

theorem witness_EchoReplyVerifies :
    5 ≤ frameIhl icmp9 ∧ 4 * frameIhl icmp9 + 8 ≤ frameTotalLen icmp9 ∧ 14 + frameTotalLen icmp9 ≤ icmp9.length := by
  decide

theorem witness_EchoReplyKeepsIpChecksum : verifies icmp9 14 (4 * frameIhl icmp9) 24 = true := by decide

/-- An echo request with the given ICMP checksum, identifier and sequence number. -/
def echoWith (c id seq : Half) : List Byte := setHalf (setHalf (setHalf icmp9 36 c) 38 id) 40 seq

/-- A checksum below 0xF7FF, above it, and equal to it with the rest of the message zero and not zero. -/
theorem witness_EchoReplyIcmpChecksum :
    ∀ f ∈ [echoWith 0xF7FD 0x0001 0x0001, echoWith 0xFFFE 0xF800 0x0000, echoWith 0xF7FF 0x0000 0x0000,
        echoWith 0xF7FF 0xFFFF 0x0000],
      5 ≤ frameIhl f ∧ 4 * frameIhl f + 8 ≤ frameTotalLen f ∧ 14 + frameTotalLen f ≤ f.length
        ∧ byteAt f (framePayload f) = 8
        ∧ verifies f (framePayload f) (frameTotalLen f - 4 * frameIhl f) (framePayload f + 2) = true := by decide

theorem witness_EchoRequestFrame :
    (procAt .icmpType icmp9 [] 42).ihl = .ok 5
      ∧ ∃ t, exec .icmpEchoReq (procAt .icmpType icmp9 [] 42) = .next t ∧ true = true :=
  ⟨by decide, exists_next (p := fun _ => true) (by decide)⟩

theorem witness_ArpRequestFrame : ∃ t, exec .arpReq (procAt .ethClass arp1 [] 42) = .next t ∧ true = true :=
  exists_next (p := fun _ => true) (by decide)

/-- A total length of 27, a UDP length of 7 and of 15, and V-UDP-2. -/
theorem witness_UdpStageBuildsPseudoHeader :
    Params.reference.wf = true
      ∧ (∀ f ∈ [udp2.set 17 27, udp2.set 39 7, udp2.set 39 15],
        rxHolds (procAt .ipProto f [] 48) 48 f = true
          ∧ endsWith (exec .udp (procAt .ipProto f [] 48)) .dropUdpLen = true)
      ∧ rxHolds (procAt .ipProto udp2 [] 48) 48 udp2 = true
      ∧ onNext (exec .udp (procAt .ipProto udp2 [] 48)) (fun t => decide (t.phase = .busy .udpCsum)) = true := by
  decide

theorem witness_UdpZeroFieldHandsOff :
    (procAt .udpCsum (udp2.take 42) [] 48).ihl = .ok 5
      ∧ (procAt .udpCsum (udp2.take 42) [] 48).udpLength (14 + 4 * 5) = .ok 14 := by decide

/-- V-UDP-3 (computed 0x0000) and V-UDP-2 (computed 0xB5CB). -/
theorem witness_UdpChecksumComparison :
    ∀ p ∈ [(udp3, (0x0000 : Half)), (udp2, 0xB5CB)],
      ∀ s ∈ [procAt .udpCsum p.1 udp2Tx 48],
      s.ihl = .ok 5 ∧ s.udpLength (14 + 4 * 5) = .ok 14 ∧ s.memRead .tx 0 20 = .ok udp2Tx
        ∧ s.memRead .rx (14 + 4 * 5 + 8) (14 - 8) = .ok (p.1.drop 42)
        ∧ inet (beWords udp2Tx ++ beWords (p.1.drop 42)) = p.2 := by decide

theorem witness_UdpComputedNeverFfff : (0xFFFE : Half) ≠ 0xFFFF := by decide

/-- A CMD write while BUSY, one of an illegal word and one of each legal word in IDLE. -/
theorem witness_CommandAcceptance :
    ((doing (procAt .c arp1 [] 42) [.wr .cmd 0x2]).phase.isBusy = true
        ∧ (doing (procAt .c arp1 [] 42) [.wr .cmd 0x2]).env.script = .wr .cmd 0x2 :: [])
      ∧ [(0x0 : Word), 0x1, 0x2, 0x3, 0x4].all (fun w =>
        decide ((doing State.reset [.wr .cmd w]).phase = .idle
          ∧ (doing State.reset [.wr .cmd w]).env.script = .wr .cmd w :: [])) = true := by decide

theorem witness_StatusRegister :
    (doing State.reset [.wr .status 0x00000004]).env.script = .wr .status 0x00000004 :: [] := by decide

/-- ERR_BUSY set by a step, and cleared by each of the three ways. -/
theorem witness_ErrBusyIsSticky :
    onNext (step (doing (procAt .c arp1 [] 42) [.wr .cmd 0x2])) (fun t => t.status.errBusy) = true
      ∧ (procAt .c arp1 [] 42).status.errBusy = false
      ∧ (procAt .c arp1 [] 42).resolve 0x10000000 .b32 = .ok (.reg .cmd)
      ∧ (doing (procAt .c arp1 [] 42) [.store 0x10000000 .b32 0x2]).env.script = .store 0x10000000 .b32 0x2 :: []
      ∧ ∀ op ∈ [EnvOp.reset, .wr .status 0x00000004, .store 0x10000004 .b32 0x00000004],
        onNext (step { doing State.reset [op] with status := ⟨true, true, .csumOk, 0x2⟩ })
          (fun t => !t.status.errBusy) = true := by decide

theorem witness_OperandRegistersReadBack :
    ∀ p ∈ [(Reg.frameLen, (0x0000FFFF : Word)), (.devIp, 0xFFFFFFFF), (.csAOff, 0x0001FFFF),
        (.csAWords, 0x0000FFFF), (.csBOff, 0x0001FFFF), (.csBWords, 0x0000FFFF), (.csOdd, 0x00000001)],
      (doing State.reset [.wr p.1 0xFFFFFFFF]).phase = .idle
        ∧ (doing State.reset [.wr p.1 0xFFFFFFFF]).env.script = .wr p.1 0xFFFFFFFF :: []
        ∧ onNext (step (doing State.reset [.wr p.1 0xFFFFFFFF])) (fun t => decide (t.readReg p.1 = p.2)) = true := by
  decide

theorem witness_ReadOnlyWritesIgnored :
    (∀ r ∈ [Reg.devMacHi, .devMacLo, .csResult, .txInfo, .udpInfo, .reserved38, .reserved3C],
        (doing State.reset [.wr r 0xFFFFFFFF]).env.script = .wr r 0xFFFFFFFF :: [])
      ∧ (doing State.reset [.wr .csResult 0xFFFFFFFF]).phase = .idle
      ∧ (doing (procAt .c arp1 [] 42) [.wr .txInfo 0]).env.script = .wr .txInfo 0 :: [] := by decide

theorem witness_DeviceMacFixed :
    (doing State.reset [.wr .devMacHi 0xFFFFFFFF]).env.script = .wr .devMacHi 0xFFFFFFFF :: []
      ∧ ∃ t, step (doing State.reset [.wr .devMacLo 0]) = .next t ∧ true = true :=
  ⟨by decide, exists_next (p := fun _ => true) (by decide)⟩

/-- Each access of the statement, on the state of a running command. -/
theorem witness_ForbiddenAccessesWhileBusy :
    (procAt .c arp1 [] 42).phase.isBusy = true
      ∧ (procAt .c arp1 [] 42).resolve 0x10000008 .b32 = .ok (.reg .frameLen)
      ∧ (procAt .c arp1 [] 42).resolve 0x1000002C .b32 = .ok (.reg .csResult)
      ∧ (procAt .c arp1 [] 42).resolve 0x10010002 .b32 = .ok (.window .rx 0)
      ∧ (procAt .c arp1 [] 42).resolve 0x1002003C .b32 = .ok (.window .tx 60)
      ∧ ∀ op ∈ [EnvOp.wr .frameLen 0, .wr .csResult 0, .store 0x1000002C .b32 0, .wb .rx 0 [0x00],
          .store 0x10000008 .b32 0, .store 0x10010002 .b32 0,
          .load 0x1002003C .b32, .load 0x10000008 .b32, .rd .status],
        (doing (procAt .c arp1 [] 42) [op]).env.script = op :: [] := by decide

/-- The first and the last register, and accesses of a wrong width or place. -/
theorem witness_RegisterAccessShape :
    ∀ p ∈ [((0x10000000 : Nat), Width.b32), (0x1000003C, .b32), (0x1000003F, .b8), (0x10000002, .b32),
        (0x10000000, .b16), (0x10000038, .b64)],
      State.reset.cfg.regBase ≤ p.1 ∧ p.1 < State.reset.cfg.regBase + 0x40 := by decide

/-- The first and the last bytes of both windows, at each width. -/
theorem witness_WindowAccessSplit :
    ∀ p ∈ [((0x10010002 : Nat), (0 : Nat), Width.b8, Buf.rx), (0x10010601, 1535, .b8, .rx), (0x100105FE, 1532, .b32, .rx),
        (0x10020000, 0, .b16, .tx), (0x1002003E, 62, .b16, .tx), (0x1002003C, 60, .b32, .tx)],
      State.reset.phase = .idle ∧ State.reset.rxHeld = false
        ∧ State.reset.resolve p.1 p.2.2.1 = .ok (.window p.2.2.2 p.2.1) := by decide

/-- The windows of State.reset do not overlap; the first and the last offset of each buffer. -/
theorem witness_WindowAddressesReachBuffers :
    WindowsApart State.reset.cfg ∧ State.reset.phase = .idle ∧ State.reset.rxHeld = false
      ∧ (∀ p ∈ [(Buf.rx, (0 : Nat), (0x10010002 : Nat)), (.rx, 1535, 0x10010601), (.tx, 0, 0x10020000),
          (.tx, 63, 0x1002003F)],
        p.2.1 < State.reset.size p.1 ∧ windowStart State.reset.cfg p.1 + p.2.1 = p.2.2)
      ∧ 0 + Width.b32.bytes ≤ State.reset.size .rx ∧ 60 + Width.b32.bytes ≤ State.reset.size .tx
      ∧ (procAt .c arp1 [] 42).readByte .rx 0 = .ok 0xff := by decide

/-- 20_memory R71, R72: a byte stored at a window's address is the buffer's byte. -/
theorem test_window_addresses :
    onNext (step (doing State.reset [.store 0x10010601 .b8 0x5A])) (fun t => decide (t.rx = [(1535, 0x5A)])) = true
      ∧ onNext (step (doing State.reset [.store 0x10020000 .b8 0x5A])) (fun t => decide (t.tx = [(0, 0x5A)])) = true := by
  decide

/-- 70_reset R295: CS_RESULT is a CS_* register. -/
theorem test_csResult_write_while_busy :
    refusedWith (step (doing (procAt .c arp1 [] 42) [.wr .csResult 0])) (.registerWriteWhileBusy .csResult) = true := by
  decide

/-- A write that ends at the end of TX, and one that ends a byte past it; an access that starts at the last byte
of RX and reaches past it, one of 64 bits, and addresses just outside the windows and the register block. -/
theorem witness_OutsideWindowRefused :
    (doing State.reset [.wb .tx 62 [0x01, 0x02]]).env.script = .wb .tx 62 [0x01, 0x02] :: []
      ∧ 62 + [(0x01 : Byte), 0x02].length ≤ State.reset.size .tx
      ∧ State.reset.size .tx < 63 + [(0x01 : Byte), 0x02].length
      ∧ refusedWith (step (doing State.reset [.wb .tx 63 [0x01, 0x02]])) (.windowAccessOutside .tx 63) = true
      ∧ WindowsApart State.reset.cfg ∧ 1535 < State.reset.size .rx
      ∧ State.reset.size .rx < 1535 + Width.b16.bytes
      ∧ refusedWith (step (doing State.reset [.store 0x10010601 .b16 0])) (.windowAccessOutside .rx 1535) = true
      ∧ refusedWith (step (doing State.reset [.load 0x10020000 .b64])) (.windowAccessWidth 0x10020000) = true
      ∧ (∀ a ∈ [(0x10010001 : Nat), 0x10010602, 0x1001FFFF, 0x10020040, 0x0FFFFFFF, 0x10000040],
        Apart State.reset.cfg.regBase 0x40 a 1
          ∧ (∀ b ∈ [Buf.rx, .tx], Apart (windowStart State.reset.cfg b) (State.reset.size b) a 1)
          ∧ refusedWith (step (doing State.reset [.load a .b8])) (.unmappedHostAddress a) = true) := by decide

/-- A transmitted frame and a handed-off datagram that nobody has taken. -/
def heldState : State :=
  { State.reset with rx := Memory.putBytes [] 0 udp2, ports := ⟨some 42, some (34, 14), []⟩ }

theorem witness_RxHeldUntilTaken :
    heldState.phase = .idle ∧ heldState.rxHeld = true ∧ 0 + [(0x01 : Byte)].length ≤ heldState.cfg.rxBufBytes
      ∧ (∀ op ∈ [EnvOp.wb .rx 0 [0x01], .store 0x10010002 .b8 0, .adapterTake, .udpTake],
        (doing heldState [op]).env.script = op :: [])
      ∧ heldState.resolve 0x10010002 .b8 = .ok (.window .rx 0) ∧ heldState.ports.txPending = some 42
      ∧ heldState.ports.udpPending = some (34, 14)
      ∧ heldState.memRead .rx 0 42 = .ok (udp2.take 42) ∧ heldState.memRead .rx 34 14 = .ok (udp2.drop 34) := by
  decide

theorem witness_ReadsHaveNoSideEffect :
    heldState.resolve 0x10000000 .b32 = .ok (.reg .cmd)
      ∧ heldState.resolve 0x10010002 .b16 = .ok (.window .rx 0) ∧ heldState.memRead .rx 0 2 = .ok [0x02, 0x11]
      ∧ ∀ op ∈ [EnvOp.rd .status, .load 0x10010002 .b16, .load 0x10000000 .b32, .poll],
      (doing heldState [op]).env.script = op :: [] ∧ (doing heldState [op]).phase = .idle
        ∧ onNext (step (doing heldState [op])) (fun _ => true) = true := by decide

theorem witness_PollWaitsForIdle :
    (doing heldState [.poll]).env.script = .poll :: [] ∧ heldState.phase = .idle
      ∧ (procAt .c arp1 [] 42).phase.isBusy = true := by decide

theorem witness_ResetAtAnyTime :
    (doing (procAt .c arp1 [] 42) [.reset]).env.script = .reset :: []
      ∧ Reg.status ≠ .devMacHi ∧ Reg.status ≠ .devMacLo ∧ 1535 < (State.resetWith Params.reference).size .rx := by
  decide

/-- A decoded word of every encoding, with each of the three scripts, and a word that is no row. -/
theorem witness_StepRunsDecodedInstruction :
    (∀ p ∈ [(Format.c, Raw.c 0x1, arp1, ([] : List Byte)), (.ethClass, .ethClass 0x0806, arp1, []),
        (.ipProto, .ipProto 0x11, udp2, []), (.icmpType, .icmpType 0x08, icmp9, []),
        (.udpCsum, .udpCsum 0xB5CB, udp2, udp2Tx)],
      ∀ s ∈ [procAt p.1 p.2.2.1 p.2.2.2 42],
      s.phase = .busy p.1 ∧ s.fetch p.1 = .ok p.2.1 ∧ (decode p.2.1).instr?.isSome = true
        ∧ s.env.script = [] ∧ (doing s [.poll]).env.script = .poll :: []
        ∧ (doing s [.wait]).env.script = .wait :: [])
      ∧ (procAt .ipProto (icmp9.set 23 6) [] 42).fetch .ipProto = .ok (.ipProto 6)
      ∧ decode (.ipProto 6) = .reject .ipProtocol
      ∧ State.reset.phase = .idle ∧ State.reset.env.script = [] := by decide

theorem no_ports {s : State} (h1 : s.ports.txPending = none) (h2 : s.ports.udpPending = none) : s.portsOk := by
  constructor <;> simp [h1, h2]

/-- A running CSUM of the reset registers meets the invariant. -/
theorem csum_inv : (csumAt 0x2 Region.zero Region.zero false).Inv where
  params := by decide
  rx := by decide
  tx := by decide
  status := rfl
  latch := .inr (.inl rfl)
  frame := trivial
  ports := no_ports rfl rfl

/-- The engine before the checksum field of V-UDP-2 meets the invariant, with every check of its frame. -/
theorem udp_inv : (procAt .udpCsum udp2 udp2Tx 48).Inv where
  params := by decide
  rx := by decide
  tx := by decide
  status := rfl
  latch := rfl
  frame := by
    refine ⟨5, 34, 14, ⟨by unfold State.frameLenOk; decide, by decide, by decide, by decide, ⟨0x4000, by decide⟩,
      by decide, by decide, by decide, ?_⟩, by unfold State.payloadOk; decide, by decide, by decide, by decide,
      [0xc0, 0xa8, 0x01, 0x0a], [0xc0, 0xa8, 0x01, 0x32], [0x7a, 0x51, 0x7a, 0x51], by decide⟩
    exact ⟨_, State.verify_eq_ok.2 ⟨0x9af8, [0x4500, 0x0022, 0x1c46, 0x4000, 0x4011, 0x0000, 0xc0a8, 0x010a,
      0xc0a8, 0x0132], by decide, by decide, by rw [show inet _ = (0x9af8 : Half) by decide]; rfl⟩⟩
  ports := no_ports rfl rfl

/-- A PROC of an empty RX with a latched length of 14 meets the invariant. -/
theorem proc_inv : (procAt .c [] [] 14).Inv where
  params := by decide
  rx := by decide
  tx := by decide
  status := rfl
  latch := .inl rfl
  frame := trivial
  ports := no_ports rfl rfl

theorem witness_InvariantAtReset : Params.reference.wf = true := by decide

theorem witness_StepKeepsInvariant :
    (procAt .udpCsum udp2 udp2Tx 48).Inv ∧ ∃ t, step (procAt .udpCsum udp2 udp2Tx 48) = .next t ∧ true = true :=
  ⟨udp_inv, exists_next (p := fun _ => true) (by decide)⟩

theorem witness_NoAccessOutsideBuffers :
    (procAt .c [] [] 14).Inv ∧ (procAt .c [] [] 14).lat.op = 0x1 ∧ (procAt .c [] [] 14).phase.isBusy = true
      ∧ (procAt .c [] [] 14).engineStep = .fault (.unwrittenByte .rx 12) :=
  ⟨proc_inv, rfl, rfl, rfl⟩

theorem witness_EveryCommandFinishes :
    let s := csumAt 0x2 Region.zero Region.zero false
    s.Inv ∧ s.phase.isBusy = true ∧ s.operandsWritten ∧ s.env.script = [] :=
  ⟨csum_inv, rfl, ⟨fun h => by simp [csumAt] at h, fun _ _ => ⟨[], rfl⟩, fun h => by simp [csumAt] at h⟩, rfl⟩

/-- A finish, a reset while BUSY, an acceptance after DONE, and an OUTCOME that changes. -/
theorem witness_BusyEndsByFinishOrReset :
    endsWith (step (procAt .c [] [] 13)) .dropFrameLen = true
      ∧ onNext (step (doing (procAt .c [] [] 13) [.reset])) (fun t => decide (t.phase = .idle)) = true
      ∧ onNext (step { doing State.reset [.wr .cmd 0x1] with status := ⟨true, false, .csumOk, 0x2⟩ })
          (fun t => decide (t.phase = .busy .c ∧ t.status.done = false)) = true := by decide

/-- Every instruction answers a next state somewhere. -/
theorem witness_EveryInstructionFrame :
    ∀ p ∈ [(Instr.proc, procAt .c arp1 [] 42), (.csum, csumAt 0x2 ⟨.rx, 0, 4⟩ Region.zero false),
        (.csum2, csumAt 0x3 ⟨.rx, 0, 2⟩ ⟨.tx, 0, 2⟩ false), (.arpReq, procAt .ethClass arp1 [] 42),
        (.ipv4Unicast, procAt .ethClass icmp9 [] 42), (.icmp, procAt .ipProto icmp9 [] 42),
        (.icmpEchoReq, procAt .icmpType icmp9 [] 42), (.udp, procAt .ipProto udp2 [] 48),
        (.udpCsumNone, procAt .udpCsum udp2 udp2Tx 48), (.udpCsumFfff, procAt .udpCsum udp2 udp2Tx 48),
        (.udpCsum 0xB5CB, procAt .udpCsum udp2 udp2Tx 48)],
      onNext (exec p.1 p.2) (fun _ => true) = true := by decide

/-- An ending of each class, and an instruction after which the command goes on. -/
theorem witness_OutcomeClassTellsEvents :
    endsWith (exec .arpReq (procAt .ethClass arp1 [] 42)) .arpReplyTx = true
      ∧ endsWith (exec (.udpCsum 0xB5CB) (procAt .udpCsum udp2 udp2Tx 48)) .udpHandoff = true
      ∧ endsWith (exec .proc (procAt .c [] [] 13)) .dropFrameLen = true
      ∧ endsWith (exec .csum (csumAt 0x2 ⟨.rx, 1536, 0⟩ Region.zero true)) .errRange = true
      ∧ endsWith (exec .csum (csumAt 0x2 ⟨.rx, 1536, 0⟩ Region.zero false)) .csumOk = true
      ∧ onNext (exec .proc (procAt .c arp1 [] 42)) (fun t => t.phase.isBusy) = true := by decide

/-- A whole ARP request, a length below 14, and a length past RX. -/
theorem witness_ProcRunIsVerdict :
    (∀ s ∈ [procAt .c arp1 [] 42],
      s.cfg.wf = true ∧ s.phase = .busy .c ∧ s.lat.op = 0x1 ∧ s.env.script = []
        ∧ arp1.length = s.lat.frameLen.toNat ∧ s.memRead .rx 0 arp1.length = .ok arp1
        ∧ arp1.length ≤ s.cfg.rxBufBytes)
      ∧ (arp1.take 13).length = (procAt .c [] [] 13).lat.frameLen.toNat
      ∧ (List.replicate 1537 (0x00 : Byte)).length = (procAt .c [] [] 1537).lat.frameLen.toNat := by
  refine ⟨by decide, by decide, by rw [List.length_replicate]; decide⟩

end Sys2Proof.Tests
end

section
/-! SUPPORT. What every answer of a chain of buffer operations meets, and what the builders of replies leave
unchanged. -/

namespace Sys2Proof.Machine

/-! ### Walking through a chain of checks -/

/-- Whatever the operation answers meets `P`; a fault meets it vacuously. -/
def Answers {α : Type} (x : Except Fault α) (P : α → Prop) : Prop := ∀ a, x = .ok a → P a

theorem Answers.ok {α : Type} {a : α} {P : α → Prop} (h : P a) : Answers (.ok a) P :=
  fun _ e => Except.ok.inj e ▸ h

theorem Answers.bind {α β : Type} {x : Except Fault β} {f : β → Except Fault α} {P : α → Prop}
    (h : ∀ b, x = .ok b → Answers (f b) P) : Answers (x >>= f) P := by
  intro a ha
  obtain ⟨b, hb, ha⟩ := bind_eq_ok.1 ha
  exact h b hb a ha

theorem Answers.ite {α : Type} {c : Prop} [Decidable c] {x y : Except Fault α} {P : α → Prop}
    (hx : c → Answers x P) (hy : ¬c → Answers y P) : Answers (if c then x else y) P := by
  by_cases h : c
  · simpa [h] using hx h
  · simpa [h] using hy h

/-- What a meaning's chain answers is what the instruction's next state meets. -/
theorem Answers.next {x : Except Fault State} {P : State → Prop} {t : State} (hx : Answers x P)
    (h : settle x = .next t) : P t :=
  hx t (settle_eq_next.1 h)

/-! ### Operations that write the buffers only -/

/-- `t` differs from `s` in the buffers, ACC and the counter of free values only, and its buffers are
canonical where those of `s` are. -/
structure State.WroteBuffers (s t : State) : Prop where
  cfg    : t.cfg = s.cfg
  phase  : t.phase = s.phase
  status : t.status = s.status
  regs   : t.regs = s.regs
  lat    : t.lat = s.lat
  ports  : t.ports = s.ports
  env    : t.env = s.env
  fits   : ∀ b, (s.mem b).fits (s.size b) → (t.mem b).fits (t.size b)

namespace State.WroteBuffers

variable {s t u : State}

theorem refl (s : State) : s.WroteBuffers s := ⟨rfl, rfl, rfl, rfl, rfl, rfl, rfl, fun _ h => h⟩

theorem trans (h1 : s.WroteBuffers t) (h2 : t.WroteBuffers u) : s.WroteBuffers u :=
  ⟨h2.cfg.trans h1.cfg, h2.phase.trans h1.phase, h2.status.trans h1.status, h2.regs.trans h1.regs,
    h2.lat.trans h1.lat, h2.ports.trans h1.ports, h2.env.trans h1.env, fun b h => h2.fits b (h1.fits b h)⟩

theorem accRelease (s : State) : s.WroteBuffers s.accRelease :=
  ⟨rfl, rfl, rfl, rfl, rfl, rfl, rfl, fun b h => by cases b <;> exact h⟩

theorem memWrite {b : Buf} {o : Nat} {bs : List Byte} (h : s.memWrite b o bs = .ok t) : s.WroteBuffers t := by
  have hf : ∀ b', (s.mem b').fits (s.size b') → (t.mem b').fits (t.size b') :=
    fun _ => State.memWrite_fits h
  have ht := State.memWrite_eq h
  subst ht
  exact ⟨by simp, by simp, by simp, by simp, by simp, by simp, by simp, hf⟩

theorem writeByte {b : Buf} {o : Nat} {v : Byte} (h : s.writeByte b o v = .ok t) : s.WroteBuffers t :=
  memWrite (b := b) (o := o) (bs := [v]) (by simp [State.memWrite, h])

theorem generate {b : Buf} {o n f : Nat} {odd : Bool} (h : s.generate b o n odd f = .ok t) :
    s.WroteBuffers t := by
  obtain ⟨z, ws, hz, -, ht⟩ := State.generate_eq_ok.1 h
  exact (memWrite hz).trans ((accRelease z).trans (memWrite ht))

theorem swapMacs (h : s.swapMacs = .ok t) : s.WroteBuffers t := by
  simp only [State.swapMacs, bind_eq_ok] at h
  obtain ⟨_, -, _, -, u, h1, h2⟩ := h
  exact (memWrite h1).trans (memWrite h2)

theorem swapIps (h : s.swapIps = .ok t) : s.WroteBuffers t := by
  simp only [State.swapIps, bind_eq_ok] at h
  obtain ⟨_, -, _, -, u, h1, h2⟩ := h
  exact (memWrite h1).trans (memWrite h2)

/-- 42_arp R197. -/
theorem arpBuildReply (h : s.arpBuildReply = .ok t) : s.WroteBuffers t := by
  simp only [State.arpBuildReply, bind_eq_ok] at h
  obtain ⟨_, -, _, -, _, -, _, -, _, h1, _, h2, _, h3, _, h4, _, h5, _, h6, h7⟩ := h
  exact (memWrite h1).trans ((memWrite h2).trans ((memWrite h3).trans ((memWrite h4).trans
    ((memWrite h5).trans ((memWrite h6).trans (memWrite h7))))))

/-- 44_icmp R234-R238. -/
theorem icmpBuildReply {ihl ilen : Nat} (h : s.icmpBuildReply ihl ilen = .ok t) : s.WroteBuffers t := by
  simp only [State.icmpBuildReply, bind_eq_ok] at h
  obtain ⟨_, h1, _, h2, _, h3, _, h4, h5⟩ := h
  exact (writeByte h1).trans ((swapMacs h2).trans ((swapIps h3).trans ((generate h4).trans (generate h5))))

/-- 45_udp R252. -/
theorem buildPseudoHeader {p : Nat} {len : Half} (h : s.buildPseudoHeader p len = .ok t) :
    s.WroteBuffers t := by
  simp only [State.buildPseudoHeader, bind_eq_ok] at h
  obtain ⟨_, -, _, h1, _, -, _, h2, _, h3, _, h4, _, h5, _, -, _, h6, _, h7, h8⟩ := h
  exact (memWrite h1).trans ((memWrite h2).trans ((writeByte h3).trans ((writeByte h4).trans
    ((memWrite h5).trans ((memWrite h6).trans ((memWrite h7).trans (memWrite h8)))))))

end State.WroteBuffers

/-! ### The bytes of the pseudo-header -/

/-- Two block writes, the second where the first ends, are one. -/
theorem Memory.putBytes_append (m : Memory) (o : Nat) (xs ys : List Byte) :
    m.putBytes o (xs ++ ys) = (m.putBytes o xs).putBytes (o + xs.length) ys := by
  induction xs generalizing m o with
  | nil => rfl
  | cons x xs ih => simp [Memory.putBytes, ih, Nat.add_assoc, Nat.add_comm 1]

/-- A block write inside the buffer reads back. -/
theorem State.memRead_putBytes (s : State) {b : Buf} {o : Nat} {bs : List Byte} (h : o + bs.length ≤ s.size b) :
    (s.setMem b ((s.mem b).putBytes o bs)).memRead b o bs.length = .ok bs := by
  refine State.memRead_eq_ok.2 ⟨rfl, fun k hk => ?_⟩
  simp [State.readByte_putBytes, hk, show o + k < s.size b by omega]

/-- The state with `bs` written to TX from offset 0 on. -/
def State.withTx (s : State) (bs : List Byte) : State := s.setMem .tx ((s.mem .tx).putBytes 0 bs)

@[simp] theorem State.withTx_memRead_rx (s : State) (bs : List Byte) (o n : Nat) :
    (s.withTx bs).memRead .rx o n = s.memRead .rx o n :=
  State.memRead_congr (s := s) (t := s.withTx bs) rfl rfl o n

/-- A block write right after the bytes written so far. -/
theorem State.withTx_memWrite {s u : State} {xs ys : List Byte} {o : Nat} (ho : xs.length = o)
    (h : (s.withTx xs).memWrite .tx o ys = .ok u) : u = s.withTx (xs ++ ys) := by
  subst ho
  simpa [State.withTx, Memory.putBytes_append] using State.memWrite_eq h

/-- A byte write right after the bytes written so far. -/
theorem State.withTx_writeByte {s u : State} {xs : List Byte} {o : Nat} {v : Byte} (ho : xs.length = o)
    (h : (s.withTx xs).writeByte .tx o v = .ok u) : u = s.withTx (xs ++ [v]) :=
  State.withTx_memWrite (ys := [v]) ho (by simp [State.memWrite, h])

/-- UDP writes TX only, and leaves the pseudo-header and the UDP header copy in its bytes 0..19
(45_udp R252). -/
theorem State.buildPseudoHeader_bytes {s t : State} {p : Nat} {len : Half} (hsize : 20 ≤ s.size .tx)
    (h : s.buildPseudoHeader p len = .ok t) : t.rx = s.rx ∧ t.pseudoHeaderOk p len := by
  simp only [State.buildPseudoHeader, bind_eq_ok] at h
  obtain ⟨src, hsrc, t1, h1, dst, hdst, t2, h2, t3, h3, t4, h4, t5, h5, ports, hports, t6, h6, t7, h7, h8⟩ := h
  have lsrc := State.memRead_length hsrc
  have ldst := State.memRead_length hdst
  have lports := State.memRead_length hports
  obtain rfl : t1 = s.withTx src := State.memWrite_eq h1
  obtain rfl := State.withTx_memWrite lsrc h2
  obtain rfl := State.withTx_writeByte (by simp [lsrc, ldst]) h3
  obtain rfl := State.withTx_writeByte (by simp [lsrc, ldst]) h4
  obtain rfl := State.withTx_memWrite (by simp [lsrc, ldst]) h5
  obtain rfl := State.withTx_memWrite (by simp [lsrc, ldst]) h6
  obtain rfl := State.withTx_memWrite (by simp [lsrc, ldst, lports]) h7
  obtain rfl := State.withTx_memWrite (by simp [lsrc, ldst, lports]) h8
  simp only [State.withTx_memRead_rx] at hdst hports
  refine ⟨rfl, src, dst, ports, by simpa using hsrc, by simpa using hdst, by simpa using hports, ?_⟩
  have hback := State.memRead_putBytes s (b := .tx) (o := 0)
    (bs := src ++ dst ++ [0x00, 17] ++ halfBytes len ++ ports ++ halfBytes len ++ [0x00, 0x00])
    (by simp [lsrc, ldst, lports, hsize])
  simpa [State.withTx, lsrc, ldst, lports, protoUdp, halfBytes] using hback

end Sys2Proof.Machine
end

section
/-! SUPPORT. For each instruction that checks a frame, the checks it has made when the command goes on, and
that every drop has an outcome code; then the two ways every instruction moves a command on. -/

namespace Sys2Proof.Machine

/-! ### The checks of each stage -/

/-- The command has ended with an outcome code after no write but a checksum computation's to ACC
(41_dispatch R172). -/
def State.Drops (s t : State) : Prop :=
  ∃ code, code ≠ .none ∧ (t = s.finish code ∨ t = s.accRelease.finish code)

theorem State.Drops.now {s : State} {code : OutcomeCode} (h : code ≠ .none) : s.Drops (s.finish code) :=
  ⟨code, h, .inl rfl⟩

theorem State.Drops.afterSum {s : State} {code : OutcomeCode} (h : code ≠ .none) :
    s.Drops (s.accRelease.finish code) :=
  ⟨code, h, .inr rfl⟩

/-- An answer that drops the frame, whatever else its stage could do. -/
theorem Answers.drops {s : State} {code : OutcomeCode} {Q : State → Prop} (h : code ≠ .none) :
    Answers (.ok (s.drop code)) (fun t => s.Drops t ∨ Q t) :=
  .ok (.inl (.now h))

/-- 41_dispatch R174-R176. -/
theorem execProc_checks {s t : State} (h : execProc s = .next t) :
    s.Drops t ∨ (t = s.enter .ethClass ∧ s.frameLenOk ∧
      ((s.etherType = .ok etherIpv4 ∧ s.dstMac = .ok s.cfg.deviceMac.bytes)
        ∨ (s.etherType = .ok etherArp ∧ s.dstMac = .ok broadcastMac))) := by
  apply Answers.next (t := t) ?_ h
  refine .ite (fun _ => .drops (by decide)) fun hlen => ?_
  have hlen : s.frameLenOk := ⟨by omega, by omega⟩
  refine .bind fun et het => .ite (fun _ => .drops (by decide)) fun _ => .bind fun dst hdst => ?_
  refine .ite (fun hmac => ?_) fun _ => .ite (fun hmac => ?_) fun _ => .drops (by decide)
  · exact .ite (fun he => .ok (.inr ⟨rfl, hlen, .inl ⟨he ▸ het, hmac ▸ hdst⟩⟩)) fun _ => .drops (by decide)
  · exact .ite (fun he => .ok (.inr ⟨rfl, hlen, .inr ⟨he ▸ het, hmac ▸ hdst⟩⟩)) fun _ => .drops (by decide)

/-- 42_arp R191-R198. -/
theorem execArpReq_checks {s t : State} (h : execArpReq s = .next t) :
    s.Drops t ∨ ∃ u, s.arpBuildReply = .ok u ∧ t = (u.emitTransmit 42).finish .arpReplyTx := by
  apply Answers.next (t := t) ?_ h
  refine .ite (fun _ => .drops (by decide)) fun _ => .bind fun htype _ => ?_
  refine .ite (fun _ => .drops (by decide)) fun _ => .bind fun ptype _ => ?_
  refine .ite (fun _ => .drops (by decide)) fun _ => .bind fun oper _ => ?_
  refine .ite (fun _ => .drops (by decide)) fun _ => .ite (fun _ => .drops (by decide)) fun _ => ?_
  refine .bind fun tpa _ => .ite (fun _ => .drops (by decide)) fun _ => ?_
  exact .bind fun u hu => .ok (.inr ⟨u, hu, rfl⟩)

/-- 43_ipv4 R211-R215. -/
theorem execIpv4Unicast_checks {s t : State} (h : execIpv4Unicast s = .next t) :
    s.Drops t ∨ (t = s.accRelease.enter .ipProto ∧ 34 ≤ s.lat.frameLen.toNat
      ∧ (∃ ff, s.be16 .rx 20 = .ok ff ∧ ff &&& fragMask = 0x0000)
      ∧ (∃ ihl, s.ihl = .ok ihl ∧ 5 ≤ ihl ∧ payloadOff ihl ≤ s.lat.frameLen.toNat
        ∧ ∃ u, s.verify .rx 14 (2 * ihl) false 24 = .ok (true, u))
      ∧ (s.readByte .rx 23 = .ok protoIcmp ∨ s.readByte .rx 23 = .ok protoUdp)) := by
  apply Answers.next (t := t) ?_ h
  refine .ite (fun _ => .drops (by decide)) fun hlen => .bind fun ff hff => ?_
  refine .ite (fun _ => .drops (by decide)) fun hfrag => .bind fun ihl hihl => ?_
  refine .ite (fun _ => .drops (by decide)) fun hbound => .bind fun v hv => ?_
  obtain ⟨saved, ws, -, -, hpair⟩ := State.verify_eq_ok.1 hv
  have hstate : v.2 = s.accRelease := by rw [hpair]
  rw [hstate]
  refine .ite (fun _ => .ok (.inl (.afterSum (by decide)))) fun hpass => .bind fun proto hproto => ?_
  refine .ite (fun hp => .ok (.inr ⟨rfl, by omega, ⟨ff, hff, not_not.1 hfrag⟩, ?_, ?_⟩))
    fun _ => .ok (.inl (.afterSum (by decide)))
  · exact ⟨ihl, hihl, by omega, by omega, v.2, hv.trans (congrArg _ (Prod.ext (by simpa using hpass) rfl))⟩
  · rcases hp with rfl | rfl
    · exact .inl hproto
    · exact .inr hproto

/-- 44_icmp R231, R232. -/
theorem execIcmp_checks {s t : State} (h : execIcmp s = .next t) :
    s.Drops t ∨ (t = s.enter .icmpType ∧ ∃ ihl tl, s.ihl = .ok ihl ∧ s.payloadOk ihl tl
      ∧ s.readByte .rx (payloadOff ihl) = .ok icmpEchoRequest) := by
  apply Answers.next (t := t) ?_ h
  refine .bind fun ihl hihl => .bind fun tl htl => .ite (fun _ => .drops (by decide)) fun hlen => ?_
  refine .bind fun ty hty => .ite (fun _ => .drops (by decide)) fun hecho => ?_
  exact .ok (.inr ⟨rfl, ihl, tl, hihl, ⟨htl, by omega, by omega⟩, not_not.1 hecho ▸ hty⟩)

/-- 45_udp R251, R252. -/
theorem execUdp_checks {s t : State} (h : execUdp s = .next t) :
    s.Drops t ∨ ∃ ihl tl len u, s.ihl = .ok ihl ∧ s.payloadOk ihl tl
      ∧ s.udpLength (payloadOff ihl) = .ok len ∧ 8 ≤ len.toNat ∧ len.toNat ≤ tl - 4 * ihl
      ∧ s.buildPseudoHeader (payloadOff ihl) len = .ok u ∧ t = u.enter .udpCsum := by
  apply Answers.next (t := t) ?_ h
  refine .bind fun ihl hihl => .bind fun tl htl => .ite (fun _ => .drops (by decide)) fun hlen => ?_
  refine .bind fun len hl => .ite (fun _ => .drops (by decide)) fun hudp => .bind fun u hu => ?_
  exact .ok (.inr ⟨ihl, tl, len, u, hihl, ⟨htl, by omega, by omega⟩, hl, by omega, by omega, hu, rfl⟩)

/-! ### How an instruction moves a command on -/

/-- The command goes on to another encoding with STATUS and the latches as they were, or has ended with an
outcome code; the parameters and the outside world are as before. -/
inductive State.MovesOn (s t : State) : Prop
  | goesOn (f : Format) (phase : t.phase = .busy f) (status : t.status = s.status) (lat : t.lat = s.lat)
      (world : s.SameWorld t)
  | ends (code : OutcomeCode) (hcode : code ≠ .none) (ended : s.Ended t code) (world : s.SameWorld t)

/-- A finish after writes to the buffers, registers and ports. -/
theorem State.MovesOn.finish {s u : State} {code : OutcomeCode} (hcode : code ≠ .none)
    (hstatus : u.status = s.status) (hcfg : u.cfg = s.cfg) (henv : u.env = s.env) :
    s.MovesOn (u.finish code) :=
  .ends code hcode ⟨rfl, rfl, rfl, by simp [hstatus], by simp [hstatus]⟩ ⟨hcfg, henv⟩

theorem State.MovesOn.enter {s u : State} (f : Format) (h : s.WroteBuffers u) : s.MovesOn (u.enter f) :=
  .goesOn f rfl h.status h.lat ⟨h.cfg, h.env⟩

theorem State.Drops.movesOn {s t : State} (h : s.Drops t) : s.MovesOn t := by
  obtain ⟨code, hcode, rfl | rfl⟩ := h <;> exact .finish hcode rfl rfl rfl

/-- The transmission of a reply that is built in the buffers. -/
theorem State.MovesOn.transmit {s u : State} {code : OutcomeCode} {len : Half} (hcode : code ≠ .none)
    (h : s.WroteBuffers u) : s.MovesOn ((u.emitTransmit len).finish code) :=
  .finish hcode h.status h.cfg h.env

/-- A checksum command that reads its bytes writes CS_RESULT and ends (40_checksum R147, R148). -/
theorem State.finishCsum_eq (s : State) (ws : List Half) :
    s.finishCsum ws = (s.accRelease.setResult (inet ws)).finish .csumOk := by
  rw [State.finishCsum, State.checksum_fst, State.checksum_snd]

theorem State.MovesOn.setResult (s : State) (r : Half) :
    s.MovesOn ((s.accRelease.setResult r).finish .csumOk) :=
  .finish (by decide) rfl rfl rfl

theorem State.finishCsum_movesOn (s : State) (ws : List Half) : s.MovesOn (s.finishCsum ws) := by
  rw [State.finishCsum_eq]
  exact .setResult s _

/-- The comparison of a UDP checksum ends the command. -/
theorem State.udpCompare_movesOn {s t : State} {e : Half} (h : s.udpCompare e = .ok t) : s.MovesOn t := by
  obtain ⟨_, _, _, -, -, -, ⟨-, rfl⟩ | ⟨-, rfl⟩⟩ := State.udpCompare_eq_ok h <;>
    exact .finish (by decide) rfl rfl rfl

/-- Every instruction that answers a next state moves its command on (41_dispatch R171, log 6). -/
theorem exec_movesOn {i : Instr} {s t : State} (h : exec i s = .next t) : s.MovesOn t := by
  cases i with
  | proc =>
    rcases execProc_checks h with hd | ⟨rfl, -⟩
    · exact hd.movesOn
    · exact .enter _ (.refl s)
  | csum =>
    rcases execCsum_next h with rfl | ⟨ws, -, rfl⟩
    · exact .finish (by decide) rfl rfl rfl
    · exact State.finishCsum_movesOn s _
  | csum2 =>
    rcases execCsum2_next h with rfl | ⟨wa, wb, -, -, rfl⟩
    · exact .finish (by decide) rfl rfl rfl
    · exact State.finishCsum_movesOn s _
  | arpReq =>
    rcases execArpReq_checks h with hd | ⟨u, hu, rfl⟩
    · exact hd.movesOn
    · exact .transmit (by decide) (.arpBuildReply hu)
  | ipv4Unicast =>
    rcases execIpv4Unicast_checks h with hd | ⟨rfl, -⟩
    · exact hd.movesOn
    · exact .enter _ (.accRelease s)
  | icmp =>
    rcases execIcmp_checks h with hd | ⟨rfl, -⟩
    · exact hd.movesOn
    · exact .enter _ (.refl s)
  | icmpEchoReq =>
    rcases execIcmpEchoReq_next h with rfl | ⟨ihl, tl, u, -, -, hu, rfl⟩
    · exact .finish (by decide) rfl rfl rfl
    · exact .transmit (by decide) ((State.WroteBuffers.accRelease s).trans (.icmpBuildReply hu))
  | udp =>
    rcases execUdp_checks h with hd | ⟨_, _, _, u, -, -, -, -, -, hu, rfl⟩
    · exact hd.movesOn
    · exact .enter _ (.buildPseudoHeader hu)
  | udpCsumNone =>
    obtain ⟨_, _, -, -, rfl⟩ := execUdpCsumNone_next h
    exact .finish (by decide) rfl rfl rfl
  | udpCsumFfff => exact State.udpCompare_movesOn (settle_eq_next.1 h)
  | udpCsum stored => exact State.udpCompare_movesOn (settle_eq_next.1 h)

/-- An engine step that answers: nothing in IDLE, a move of the running command in BUSY. -/
theorem State.engineStep_movesOn {s t : State} (h : s.engineStep = .next t) :
    (s.phase = .idle ∧ t = s) ∨ (s.phase.isBusy = true ∧ s.MovesOn t) := by
  rcases State.engineStep_next h with hidle | ⟨f, raw, hp, -, ⟨i, -, hx⟩ | ⟨r, -, rfl⟩⟩
  · exact .inl hidle
  · exact .inr ⟨by simp [hp], exec_movesOn hx⟩
  · exact .inr ⟨by simp [hp], .finish (by cases r <;> decide) rfl rfl rfl⟩

end Sys2Proof.Machine
end

section
/-! SUPPORT. What one step does to PHASE, STATUS and the parameters, read off once from the step's cases. -/

namespace Sys2Proof.Machine

/-! ### Host writes of a register -/

/-- The action is a host write of `v` to the register `r`, by name or at its platform address. -/
def State.NamesWrite (s : State) (op : EnvOp) (r : Reg) (v : Word) : Prop :=
  op = .wr r v ∨ ∃ addr, op = .store addr .b32 v ∧ s.resolve addr .b32 = .ok (.reg r)

@[simp] theorem State.withScript_namesWrite (s : State) (ops : List EnvOp) (op : EnvOp) (r : Reg) (v : Word) :
    (s.withScript ops).NamesWrite op r v ↔ s.NamesWrite op r v := by
  simp [State.NamesWrite]

/-- A register is reached by 32-bit accesses only (20_memory R78). -/
theorem State.resolve_reg_width {s : State} {addr : Nat} {w : Width} {r : Reg}
    (h : s.resolve addr w = .ok (.reg r)) : w = .b32 := by
  have hwindow : ∀ b o, s.windowTarget b addr o w ≠ .ok (.reg r) := by
    intro b o hb
    unfold State.windowTarget at hb
    split_ifs at hb
    cases hb
  unfold State.resolve at h
  split_ifs at h
  · split at h
    · rfl
    all_goals cases h
  · exact absurd h (hwindow _ _)
  · exact absurd h (hwindow _ _)

/-- A named register write acts as the write itself. -/
theorem State.act_of_namesWrite {s : State} {op : EnvOp} {r : Reg} {v : Word} (h : s.NamesWrite op r v) :
    s.act op = s.writeReg r v := by
  obtain rfl | ⟨addr, rfl, hr⟩ := h
  · rfl
  · simp [State.act, State.hostStore, hr]

theorem step_of_namesWrite {s : State} {op : EnvOp} {rest : List EnvOp} {r : Reg} {v : Word}
    (hs : s.env.script = op :: rest) (h : s.NamesWrite op r v) :
    step s = (s.withScript rest).writeReg r v := by
  have hop : op ≠ .poll ∧ op ≠ .wait := by
    obtain rfl | ⟨addr, rfl, -⟩ := h <;> simp
  rw [step_act hs (.inl hop.1) hop.2]
  exact State.act_of_namesWrite (by simpa using h)

/-- Everything an act of the outside world that answers can be (30_encoding R131). -/
theorem State.act_next {s t : State} {op : EnvOp} (h : s.act op = .next t) :
    (∃ r v, s.NamesWrite op r v ∧ s.writeReg r v = .next t)
      ∨ (∃ b o bs, s.hostWriteBytes b o bs = .next t)
      ∨ (∃ v, t = s.logRead op v)
      ∨ s.adapterTake = .next t ∨ s.udpTake = .next t
      ∨ (op = .reset ∧ t = s.hardReset)
      ∨ t = s := by
  cases op with
  | wr r v => exact .inl ⟨r, v, .inl rfl, h⟩
  | rd r => exact .inr (.inr (.inl ⟨_, (Host.Outcome.next.inj h).symm⟩))
  | wb b off bs => exact .inr (.inl ⟨b, off, bs, h⟩)
  | poll => exact .inr (.inr (.inl ⟨_, (Host.Outcome.next.inj h).symm⟩))
  | store a w v =>
    rcases State.hostStore_next h with ⟨r, hr, hw⟩ | ⟨b, o, -, hw⟩
    · obtain rfl := State.resolve_reg_width hr
      exact .inl ⟨r, v, .inr ⟨a, rfl, hr⟩, hw⟩
    · exact .inr (.inl ⟨b, o, _, hw⟩)
  | load a w => exact .inr (.inr (.inl (State.hostLoad_next h)))
  | adapterTake => exact .inr (.inr (.inr (.inl h)))
  | udpTake => exact .inr (.inr (.inr (.inr (.inl h))))
  | reset => exact .inr (.inr (.inr (.inr (.inr (.inl ⟨rfl, (Host.Outcome.next.inj h).symm⟩)))))
  | wait => exact .inr (.inr (.inr (.inr (.inr (.inr (Host.Outcome.next.inj h).symm)))))

/-- A step is an engine step or the act at the head of the script, with the script moved on or not. -/
theorem step_next {s t : State} (h : step s = .next t) :
    (∃ ops, (s.withScript ops).engineStep = .next t)
      ∨ ∃ op rest, s.env.script = op :: rest ∧ (s.withScript rest).act op = .next t := by
  rcases step_cases s with ⟨-, he⟩ | ⟨op, rest, hs, ⟨-, -, he⟩ | ⟨-, he⟩ | ⟨-, -, he⟩⟩
  · exact .inl ⟨s.env.script, he ▸ h⟩
  · exact .inl ⟨s.env.script, he ▸ h⟩
  · exact .inl ⟨rest, he ▸ h⟩
  · exact .inr ⟨op, rest, hs, he ▸ h⟩

/-! ### PHASE and STATUS over a step -/

theorem Phase.isBusy_iff_ne_idle {p : Phase} : p.isBusy = true ↔ p ≠ .idle := by
  cases p <;> simp

@[simp] theorem State.cmdWrite_cfg (s : State) (w : Word) : (s.cmdWrite w).cfg = s.cfg := by
  rcases s.cmdWrite_cases w with ⟨-, h⟩ | ⟨-, -, h⟩ | ⟨-, -, h⟩ <;> rw [h] <;> rfl

/-- Everything a step can do to PHASE and STATUS (10_state R36-R40). -/
inductive State.StatusStep (s t : State) : Prop
  | kept (phase : t.phase = s.phase) (status : t.status = s.status) (cfg : t.cfg = s.cfg)
  | moves (ops : List EnvOp) (busy : s.phase.isBusy = true) (moves : (s.withScript ops).MovesOn t)
  | cmd (op : EnvOp) (rest : List EnvOp) (w : Word) (head : s.env.script = op :: rest)
      (names : s.NamesWrite op .cmd w) (eq : t = (s.withScript rest).cmdWrite w)
  | cleared (op : EnvOp) (rest : List EnvOp) (v : Word) (head : s.env.script = op :: rest)
      (names : s.NamesWrite op .status v) (phase : t.phase = s.phase)
      (status : t.status = s.status.hostWrite v) (cfg : t.cfg = s.cfg)
  | reset (rest : List EnvOp) (head : s.env.script = .reset :: rest) (eq : t = (s.withScript rest).hardReset)

theorem State.writeReg_statusStep {s t : State} {op : EnvOp} {rest : List EnvOp} {r : Reg} {v : Word}
    (hs : s.env.script = op :: rest) (hn : s.NamesWrite op r v)
    (h : (s.withScript rest).writeReg r v = .next t) : s.StatusStep t := by
  rcases State.writeReg_next h with ⟨rfl, rfl⟩ | ⟨rfl, rfl⟩ | ⟨-, -, -, rfl⟩
  · exact .cmd op rest v hs hn rfl
  · exact .cleared op rest v hs hn rfl rfl rfl
  · exact .kept rfl rfl rfl

theorem step_statusStep {s t : State} (h : step s = .next t) : s.StatusStep t := by
  rcases step_next h with ⟨ops, he⟩ | ⟨op, rest, hs, ha⟩
  · rcases State.engineStep_movesOn he with ⟨-, rfl⟩ | ⟨hbusy, hm⟩
    · exact .kept rfl rfl rfl
    · exact .moves ops hbusy hm
  · rcases State.act_next ha with ⟨r, v, hn, hw⟩ | ⟨b, o, bs, hw⟩ | ⟨v, rfl⟩ | hw | hw | ⟨rfl, rfl⟩ | rfl
    · exact State.writeReg_statusStep hs (by simpa using hn) hw
    · obtain ⟨-, -, -, rfl⟩ := State.hostWriteBytes_next hw
      exact .kept (by simp) (by simp) (by simp)
    · exact .kept rfl rfl rfl
    · rcases State.adapterTake_next hw with ⟨-, rfl⟩ | ⟨_, _, -, -, -, rfl⟩ <;> exact .kept rfl rfl rfl
    · rcases State.udpTake_next hw with ⟨-, rfl⟩ | ⟨_, _, _, -, -, -, rfl⟩ <;> exact .kept rfl rfl rfl
    · exact .reset rest hs rfl
    · exact .kept rfl rfl rfl

/-- No step changes a parameter (00_scope R8, log 1). -/
theorem step_cfg {s t : State} (h : step s = .next t) : t.cfg = s.cfg := by
  cases step_statusStep h with
  | kept _ _ hc => exact hc
  | moves ops _ hm => cases hm with
    | goesOn _ _ _ _ world => exact world.1
    | ends _ _ _ world => exact world.1
  | cmd _ rest w _ _ eq => rw [eq]; simp
  | cleared _ _ _ _ _ _ _ hc => exact hc
  | reset rest _ eq => rw [eq]; rfl

/-- A write to STATUS clears ERR_BUSY where its bit 2 is 1 (10_state R35). -/
@[simp] theorem Status.hostWrite_errBusy (st : Status) (v : Word) :
    (st.hostWrite v).errBusy = (st.errBusy && !v.getLsbD 2) := by
  unfold Status.hostWrite
  split <;> simp_all

theorem Status.hostWrite_eq (st : Status) (v : Word) :
    st.hostWrite v = { st with errBusy := st.errBusy && !v.getLsbD 2 } := by
  rw [← Status.hostWrite_errBusy]
  unfold Status.hostWrite
  split <;> rfl

/-! ### The statements -/

/-- Settles O29: of the ways a step can touch STATUS, only a refused CMD write sets ERR_BUSY, and only a
STATUS write and reset clear it. -/
theorem errBusyIsSticky : Obligations.ErrBusyIsSticky := by
  unfold Obligations.ErrBusyIsSticky
  refine ⟨fun s op rest w hbusy hs hop => ?_, fun s t h hset hclear => ?_, fun s t h hclear hset => ?_,
    fun _ => rfl⟩
  · have hw : (s.withScript rest).writeReg .cmd w
        = .next { s.withScript rest with status := s.status.setErrBusy } := by
      simp [State.writeReg, State.cmdWrite, hbusy]
    exact ⟨_, (step_of_namesWrite hs hop).trans hw, rfl, rfl, rfl, rfl⟩
  · cases step_statusStep h with
    | kept _ status _ => simp [status, hset] at hclear
    | moves ops _ hm =>
      cases hm with
      | goesOn _ _ status _ _ => simp [status, hset] at hclear
      | ends _ _ ended _ => simp [ended.errBusy, hset] at hclear
    | cmd op rest w _ _ eq =>
      rcases (s.withScript rest).cmdWrite_cases w with ⟨-, e⟩ | ⟨-, -, e⟩ | ⟨-, -, e⟩ <;>
        simp [eq, e, hset] at hclear
    | cleared op rest v head names _ status _ =>
      have hv : v.getLsbD 2 = true := by simpa [status, hset] using hclear
      rcases names with rfl | ⟨addr, rfl, hr⟩
      · exact ⟨_, rest, head, .inr (.inl ⟨v, rfl, hv⟩)⟩
      · exact ⟨_, rest, head, .inr (.inr ⟨addr, v, rfl, hr, hv⟩)⟩
    | reset rest head _ => exact ⟨.reset, rest, head, .inl rfl⟩
  · cases step_statusStep h with
    | kept _ status _ => simp [status, hclear] at hset
    | moves ops _ hm =>
      cases hm with
      | goesOn _ _ status _ _ => simp [status, hclear] at hset
      | ends _ _ ended _ => simp [ended.errBusy, hclear] at hset
    | cmd op rest w head names eq =>
      rcases (s.withScript rest).cmdWrite_cases w with ⟨hbusy, -⟩ | ⟨-, -, e⟩ | ⟨-, -, e⟩
      · refine ⟨hbusy, op, rest, head, ?_⟩
        exact names.imp (fun e => ⟨w, e⟩) (fun ⟨addr, e, hr⟩ => ⟨addr, w, e, hr⟩)
      · simp [eq, e, hclear] at hset
      · simp [eq, e, hclear] at hset
    | cleared op rest v _ _ _ status _ => simp [status, hclear] at hset
    | reset rest _ eq => simp [eq, Status.reset] at hset

/-- Settles O46, by the ways a step can touch PHASE and STATUS: a move of the running command, a CMD write
in IDLE, and reset. -/
theorem busyEndsByFinishOrReset : Obligations.BusyEndsByFinishOrReset := by
  unfold Obligations.BusyEndsByFinishOrReset
  intro s t h
  cases step_statusStep h with
  | kept phase status _ => simp +contextual [phase, status, Phase.isBusy_iff_ne_idle]
  | moves ops hbusy hm =>
    cases hm with
    | goesOn f phase status _ _ => simp +contextual [phase, status]
    | ends code hcode ended _ => simp [ended.phase, ended.done, ended.outcome, hcode]
  | cmd op rest w _ _ eq =>
    rcases (s.withScript rest).cmdWrite_cases w with ⟨hbusy, e⟩ | ⟨hidle, -, e⟩ | ⟨hidle, -, e⟩
    · simp +contextual [eq, e, Phase.isBusy_iff_ne_idle]
    · simp [eq, e, show s.phase = .idle from hidle]
    · simp [eq, e]
  | cleared op rest v _ _ phase status _ => simp +contextual [phase, status, Phase.isBusy_iff_ne_idle]
  | reset rest head eq => simp [head, eq]

/-- A host write to a register other than CMD and STATUS, where the host contract allows it (10_state R53). -/
theorem State.writeReg_operand {s : State} {r : Reg} (v : Word) (hcmd : r ≠ .cmd) (hstatus : r ≠ .status)
    (hidle : r.writeNeedsIdle = true → s.phase = .idle) :
    s.writeReg r v = .next { s with regs := s.regs.hostWrite r v } := by
  have hcontract : ¬(r.writeNeedsIdle && s.phase.isBusy) = true := by
    intro h
    obtain ⟨hn, hb⟩ := Bool.and_eq_true_iff.1 h
    simp [hidle hn] at hb
  exact (if_neg hcmd).trans ((if_neg hstatus).trans (if_neg hcontract))

/-- Settles O31. -/
theorem readOnlyWritesIgnored : Obligations.ReadOnlyWritesIgnored := by
  unfold Obligations.ReadOnlyWritesIgnored
  intro s r v rest hs hr hidle
  rw [step_of_namesWrite hs (.inl rfl)]
  simp only [List.mem_cons, List.not_mem_nil, or_false] at hr
  rcases hr with rfl | rfl | rfl | rfl | rfl | rfl | rfl
  case inr.inr.inl => exact State.writeReg_operand v (by decide) (by decide) fun _ => hidle rfl
  all_goals exact State.writeReg_operand v (by decide) (by decide) (by simp [Reg.writeNeedsIdle])

/-- Settles O32: the views by definition, the ignored write by O31, the constant parameters by `step_cfg`. -/
theorem deviceMacFixed : Obligations.DeviceMacFixed := by
  unfold Obligations.DeviceMacFixed
  refine ⟨fun _ => ⟨rfl, rfl⟩, fun s r v rest hr hs => ?_, fun _ _ => step_cfg⟩
  exact readOnlyWritesIgnored s r v rest hs (by rcases hr with rfl | rfl <;> simp)
    (by rcases hr with rfl | rfl <;> simp)

end Sys2Proof.Machine
end

section
/-! PROOF. The words the host reads from STATUS and from the operand registers, and the state after reset. -/

namespace Sys2Proof.Machine

/-! ### STATUS -/

theorem bit_getLsbD_zero (b : Bool) : (bit b).getLsbD 0 = b := by cases b <;> rfl

/-- Bit by bit, the fields of STATUS (10_state R36). -/
theorem statusWord_getLsbD (p : Phase) (st : Status) (i : Nat) :
    (statusWord p st).getLsbD i =
      if i < 1 then (bit p.isBusy).getLsbD i
      else if i < 2 then (bit st.done).getLsbD (i - 1)
      else if i < 3 then (bit st.errBusy).getLsbD (i - 2)
      else if i < 8 then false
      else if i < 16 then st.outcome.code.getLsbD (i - 8)
      else if i < 20 then st.lastOp.getLsbD (i - 16)
      else false := by
  have happend : (statusWord p st).getLsbD i = BitVec.getLsbD (w := 12 + 4 + 8 + 5 + 1 + 1 + 1)
      (0#12 ++ st.lastOp ++ st.outcome.code ++ 0#5 ++ bit st.errBusy ++ bit st.done ++ bit p.isBusy) i := rfl
  have hfield (a n : Nat) (hn : 0 < n) : i - a < n ↔ i < a + n := by omega
  rw [happend]
  simp only [BitVec.getLsbD_append, BitVec.getLsbD_zero, Nat.sub_sub]
  simp only [Nat.reduceAdd, hfield 1 1 (by decide), hfield 2 1 (by decide), hfield 3 5 (by decide),
    hfield 8 8 (by decide), hfield 16 4 (by decide)]

/-- A field of a word is given by its bits. -/
theorem extractLsb'_eq_of_getLsbD {w n : Nat} {x : BitVec w} {a : Nat} {f : BitVec n}
    (h : ∀ i < n, x.getLsbD (a + i) = f.getLsbD i) : x.extractLsb' a n = f :=
  BitVec.eq_of_getLsbD_eq fun i hi => by simp only [BitVec.getLsbD_extractLsb', hi, h i hi]; rfl

theorem reset_statusWord : statusWord .idle Status.reset = 0x00000000 := by decide

/-- Settles O28: the fields by `statusWord_getLsbD`, the host write by `Status.hostWrite_eq`. -/
theorem statusRegister : Obligations.StatusRegister := by
  unfold Obligations.StatusRegister
  refine ⟨fun s => ?_, fun s v rest hs => ?_, fun _ => reset_statusWord⟩
  · have hbit := statusWord_getLsbD s.phase s.status
    refine ⟨(hbit 0).trans (bit_getLsbD_zero _), (hbit 1).trans (bit_getLsbD_zero _),
      (hbit 2).trans (bit_getLsbD_zero _), ?_, ?_, ?_, ?_⟩
    all_goals
      refine extractLsb'_eq_of_getLsbD fun i hi => (hbit _).trans ?_
    · simp only [BitVec.ofNat_eq_ofNat, BitVec.getLsbD_zero]
      grind
    · grind
    · grind
    · grind
  · rw [step_of_namesWrite hs (.inl rfl), ← Status.hostWrite_eq]
    rfl

/-! ### The operand registers -/

/-- A field kept in the low bits of a register reads as the written word under its mask. -/
theorem setWidth_setWidth_eq_and (v : Word) {n : Nat} (h : n ≤ 32) :
    (v.setWidth n).setWidth 32 = v &&& BitVec.ofNat 32 (2 ^ n - 1) := by
  apply BitVec.eq_of_toNat_eq
  have hmask : 2 ^ n - 1 < 2 ^ 32 := by
    have := Nat.pow_le_pow_right (n := 2) (by decide) h
    have := Nat.pow_pos (a := 2) (n := n) (by decide)
    omega
  have hfield : v.toNat % 2 ^ n < 2 ^ 32 := (Nat.mod_le _ _).trans_lt v.isLt
  rw [BitVec.toNat_setWidth, BitVec.toNat_setWidth, BitVec.toNat_and, BitVec.toNat_ofNat,
    Nat.mod_eq_of_lt hmask, Nat.mod_eq_of_lt hfield, Nat.and_two_pow_sub_one_eq_mod]

@[simp] theorem ofBit_bit (b : Bool) : (Buf.ofBit b).bit = bit b := by cases b <;> rfl

/-- SEL and OFF as written (10_state R44, R46). -/
theorem Region.writeOff_offWord (r : Region) (v : Word) :
    (r.writeOff v).offWord = (v.setWidth 17).setWidth 32 := by
  have happend : (r.writeOff v).offWord
      = (0#15 ++ (Buf.ofBit (v.getLsbD 16)).bit ++ v.setWidth 16 : BitVec (15 + 1 + 16)) := rfl
  refine BitVec.eq_of_getLsbD_eq fun i hi => ?_
  rw [happend]
  simp only [BitVec.getLsbD_append, BitVec.getLsbD_setWidth, ofBit_bit, BitVec.getLsbD_zero]
  by_cases hoff : i < 16
  · simp [hoff, hi, show i < 17 by omega]
  · by_cases hsel : i = 16
    · subst hsel
      exact bit_getLsbD_zero _
    · simp [hoff, show ¬i - 16 < 1 by omega, show ¬i < 17 by omega]

/-- What an operand register reads after a host write (10_state R41, R42, R44-R48). -/
theorem Regs.readReg_hostWrite {s : State} {r : Reg} {v mask : Word}
    (h : (r, mask) ∈ [(Reg.frameLen, (0x0000FFFF : Word)), (.devIp, 0xFFFFFFFF), (.csAOff, 0x0001FFFF),
      (.csAWords, 0x0000FFFF), (.csBOff, 0x0001FFFF), (.csBWords, 0x0000FFFF), (.csOdd, 0x00000001)]) :
    State.readReg { s with regs := s.regs.hostWrite r v } r = v &&& mask := by
  have hodd : (bit (v.getLsbD 0)).setWidth 32 = (v.setWidth 1).setWidth 32 := by
    refine congrArg _ (BitVec.eq_of_getLsbD_eq fun i hi => ?_)
    obtain rfl : i = 0 := by omega
    rw [bit_getLsbD_zero]
    simp
  simp only [List.mem_cons, List.not_mem_nil, or_false, Prod.mk.injEq] at h
  rcases h with ⟨rfl, rfl⟩ | ⟨rfl, rfl⟩ | ⟨rfl, rfl⟩ | ⟨rfl, rfl⟩ | ⟨rfl, rfl⟩ | ⟨rfl, rfl⟩ | ⟨rfl, rfl⟩
  · exact setWidth_setWidth_eq_and v (n := 16) (by decide)
  · exact BitVec.and_allOnes.symm
  · exact (Region.writeOff_offWord _ v).trans (setWidth_setWidth_eq_and v (by decide))
  · exact setWidth_setWidth_eq_and v (n := 16) (by decide)
  · exact (Region.writeOff_offWord _ v).trans (setWidth_setWidth_eq_and v (by decide))
  · exact setWidth_setWidth_eq_and v (n := 16) (by decide)
  · exact hodd.trans (setWidth_setWidth_eq_and v (by decide))

/-! Each stored field is written through its own register only (10_state R53). -/

namespace Regs

variable (g : Regs) {r : Reg} (v : Word)

theorem hostWrite_frameLen (h : r ≠ .frameLen) : (g.hostWrite r v).frameLen = g.frameLen := by
  cases r <;> simp_all [hostWrite]

theorem hostWrite_devIp (h : r ≠ .devIp) : (g.hostWrite r v).devIp = g.devIp := by
  cases r <;> simp_all [hostWrite]

theorem hostWrite_csA_offWord (h : r ≠ .csAOff) : (g.hostWrite r v).csA.offWord = g.csA.offWord := by
  cases r <;> simp_all [hostWrite, Region.writeWords, Region.offWord]

theorem hostWrite_csA_n (h : r ≠ .csAWords) : (g.hostWrite r v).csA.n = g.csA.n := by
  cases r <;> simp_all [hostWrite, Region.writeOff]

theorem hostWrite_csB_offWord (h : r ≠ .csBOff) : (g.hostWrite r v).csB.offWord = g.csB.offWord := by
  cases r <;> simp_all [hostWrite, Region.writeWords, Region.offWord]

theorem hostWrite_csB_n (h : r ≠ .csBWords) : (g.hostWrite r v).csB.n = g.csB.n := by
  cases r <;> simp_all [hostWrite, Region.writeOff]

theorem hostWrite_csOdd (h : r ≠ .csOdd) : (g.hostWrite r v).csOdd = g.csOdd := by
  cases r <;> simp_all [hostWrite]

@[simp] theorem hostWrite_csResult : (g.hostWrite r v).csResult = g.csResult := by cases r <;> rfl

@[simp] theorem hostWrite_txLen : (g.hostWrite r v).txLen = g.txLen := by cases r <;> rfl

@[simp] theorem hostWrite_udpOff : (g.hostWrite r v).udpOff = g.udpOff := by cases r <;> rfl

@[simp] theorem hostWrite_udpLen : (g.hostWrite r v).udpLen = g.udpLen := by cases r <;> rfl

end Regs

/-- A host write to one register changes what no other register reads. -/
theorem Regs.readReg_hostWrite_ne (s : State) {r r' : Reg} (v : Word) (h : r ≠ r') :
    State.readReg { s with regs := s.regs.hostWrite r v } r' = s.readReg r' := by
  cases r' <;> simp only [State.readReg, hostWrite_csResult, hostWrite_txLen, hostWrite_udpOff, hostWrite_udpLen]
  case frameLen => rw [hostWrite_frameLen _ v h]
  case devIp => rw [hostWrite_devIp _ v h]
  case csAOff => rw [hostWrite_csA_offWord _ v h]
  case csAWords => rw [hostWrite_csA_n _ v h]
  case csBOff => rw [hostWrite_csB_offWord _ v h]
  case csBWords => rw [hostWrite_csB_n _ v h]
  case csOdd => rw [hostWrite_csOdd _ v h]

/-- Settles O30: the write is the update of one stored field, which reads back under its mask. -/
theorem operandRegistersReadBack : Obligations.OperandRegistersReadBack := by
  unfold Obligations.OperandRegistersReadBack
  intro s r v mask rest hidle hs hr
  have hop : r ≠ .cmd ∧ r ≠ .status := by
    constructor <;> rintro rfl <;> simp at hr
  refine ⟨_, (step_of_namesWrite hs (.inl rfl)).trans
    (State.writeReg_operand v hop.1 hop.2 fun _ => hidle), ?_⟩
  exact ⟨Regs.readReg_hostWrite (s := s.withScript rest) hr,
    fun r' hne => (Regs.readReg_hostWrite_ne (s.withScript rest) v hne.symm).trans (by simp),
    hidle, rfl, rfl, rfl, fun b o => State.readByte_congr rfl (by cases b <;> rfl) o, rfl⟩

/-! ### Reset -/

/-- The reset registers and ports meet every condition of the invariant, in IDLE with empty buffers. -/
theorem State.resetWith_inv {p : Params} (h : p.wf = true) : (State.resetWith p).Inv where
  params := h
  rx := Memory.nil_fits _
  tx := Memory.nil_fits _
  status := by simp [State.statusOk, State.resetWith, Status.reset]
  latch := trivial
  frame := trivial
  ports := by simp [State.portsOk, State.resetWith]

/-- Settles O42. -/
theorem invariantAtReset : Obligations.InvariantAtReset := by
  unfold Obligations.InvariantAtReset
  exact ⟨State.resetWith_inv (by decide), fun _ => State.resetWith_inv⟩

end Sys2Proof.Machine
end

section
/-! PROOF. The operand registers are not read while a command runs: every operation of the engine commutes with
a change of their values. -/

namespace Sys2Proof.Machine

theorem map_ite {α β : Type} (h : α → β) (c : Prop) [Decidable c] (x y : Except Fault α) :
    h <$> (if c then x else y) = if c then h <$> x else h <$> y := apply_ite _ _ _ _

/-! ### The state with other operand registers -/

/-- `withOperandRegs` with its two arguments in the order in which an answer is mapped. -/
def swapOperands (g : Regs) (s : State) : State := withOperandRegs s g

section
variable (g : Regs) (s : State)

@[simp] theorem swapOperands_cfg : (swapOperands g s).cfg = s.cfg := rfl
@[simp] theorem swapOperands_lat : (swapOperands g s).lat = s.lat := rfl
@[simp] theorem swapOperands_mem (b : Buf) : (swapOperands g s).mem b = s.mem b := by cases b <;> rfl
@[simp] theorem swapOperands_size (b : Buf) : (swapOperands g s).size b = s.size b := by cases b <;> rfl

@[simp] theorem swapOperands_readByte (b : Buf) (o : Nat) : (swapOperands g s).readByte b o = s.readByte b o :=
  State.readByte_congr rfl (by simp) o

@[simp] theorem swapOperands_memRead (b : Buf) (o n : Nat) :
    (swapOperands g s).memRead b o n = s.memRead b o n :=
  State.memRead_congr (s := s) (t := swapOperands g s) rfl (by simp) o n

@[simp] theorem swapOperands_be16 (b : Buf) (o : Nat) : (swapOperands g s).be16 b o = s.be16 b o :=
  State.be16_congr rfl (by simp) o

@[simp] theorem swapOperands_words (b : Buf) (o n : Nat) (odd : Bool) :
    (swapOperands g s).words b o n odd = s.words b o n odd :=
  State.words_congr (s := s) (t := swapOperands g s) rfl (by simp) o n odd

@[simp] theorem swapOperands_wordsZ (b : Buf) (o n : Nat) (odd : Bool) (f : Nat) :
    (swapOperands g s).wordsZ b o n odd f = s.wordsZ b o n odd f :=
  State.wordsZ_congr (s := s) (t := swapOperands g s) rfl (by simp) o n odd f

@[simp] theorem swapOperands_be32 (b : Buf) (o : Nat) : (swapOperands g s).be32 b o = s.be32 b o := by
  simp [State.be32]

@[simp] theorem swapOperands_etherType : (swapOperands g s).etherType = s.etherType := by simp [State.etherType]
@[simp] theorem swapOperands_dstMac : (swapOperands g s).dstMac = s.dstMac := by simp [State.dstMac]
@[simp] theorem swapOperands_ihl : (swapOperands g s).ihl = s.ihl := by simp [State.ihl]
@[simp] theorem swapOperands_totalLen : (swapOperands g s).totalLen = s.totalLen := by simp [State.totalLen]
@[simp] theorem swapOperands_udpLength (p : Nat) : (swapOperands g s).udpLength p = s.udpLength p := by
  simp [State.udpLength]
@[simp] theorem swapOperands_udpWords (p : Nat) (len : Half) :
    (swapOperands g s).udpWords p len = s.udpWords p len := by simp [State.udpWords]
@[simp] theorem swapOperands_regionWords (r : Region) (odd : Bool) :
    (swapOperands g s).regionWords r odd = s.regionWords r odd := by simp [State.regionWords]
@[simp] theorem swapOperands_inRange (r : Region) (odd : Bool) :
    (swapOperands g s).inRange r odd = s.inRange r odd := by simp [State.inRange]

/-! ### The operations that write -/

@[simp] theorem swapOperands_setMem (b : Buf) (m : Memory) :
    (swapOperands g s).setMem b m = swapOperands g (s.setMem b m) := by cases b <;> rfl
@[simp] theorem swapOperands_finish (code : OutcomeCode) :
    (swapOperands g s).finish code = swapOperands g (s.finish code) := rfl
@[simp] theorem swapOperands_enter (f : Format) : (swapOperands g s).enter f = swapOperands g (s.enter f) := rfl
@[simp] theorem swapOperands_accRelease : (swapOperands g s).accRelease = swapOperands g s.accRelease := rfl
@[simp] theorem swapOperands_setResult (r : Half) :
    (swapOperands g s).setResult r = swapOperands g (s.setResult r) := rfl
@[simp] theorem swapOperands_emitTransmit (len : Half) :
    (swapOperands g s).emitTransmit len = swapOperands g (s.emitTransmit len) := rfl
@[simp] theorem swapOperands_handOff (p : Nat) (len : Half) :
    (swapOperands g s).handOff p len = swapOperands g (s.handOff p len) := rfl
@[simp] theorem swapOperands_finishCsum (ws : List Half) :
    (swapOperands g s).finishCsum ws = swapOperands g (s.finishCsum ws) := by
  simp [State.finishCsum]

@[simp] theorem swapOperands_writeByte (b : Buf) (o : Nat) (v : Byte) :
    (swapOperands g s).writeByte b o v = swapOperands g <$> s.writeByte b o v := by
  unfold State.writeByte
  by_cases h : o < s.size b <;> simp [h]

@[simp] theorem swapOperands_memWrite (b : Buf) (o : Nat) (bs : List Byte) :
    (swapOperands g s).memWrite b o bs = swapOperands g <$> s.memWrite b o bs := by
  induction bs generalizing s o with
  | nil => rfl
  | cons v vs ih => simp [State.memWrite, ih]

@[simp] theorem swapOperands_put16 (b : Buf) (o : Nat) (v : Half) :
    (swapOperands g s).put16 b o v = swapOperands g <$> s.put16 b o v := by
  simp [State.put16]

@[simp] theorem swapOperands_generate (b : Buf) (o n : Nat) (odd : Bool) (f : Nat) :
    (swapOperands g s).generate b o n odd f = swapOperands g <$> s.generate b o n odd f := by
  simp [State.generate]

@[simp] theorem swapOperands_verify (b : Buf) (o n : Nat) (odd : Bool) (f : Nat) :
    (swapOperands g s).verify b o n odd f = (fun v => (v.1, swapOperands g v.2)) <$> s.verify b o n odd f := by
  simp [State.verify]

@[simp] theorem swapOperands_arpBuildReply :
    (swapOperands g s).arpBuildReply = swapOperands g <$> s.arpBuildReply := by
  simp [State.arpBuildReply]

@[simp] theorem swapOperands_icmpBuildReply (ihl ilen : Nat) :
    (swapOperands g s).icmpBuildReply ihl ilen = swapOperands g <$> s.icmpBuildReply ihl ilen := by
  simp [State.icmpBuildReply, State.swapMacs, State.swapIps]

@[simp] theorem swapOperands_buildPseudoHeader (p : Nat) (len : Half) :
    (swapOperands g s).buildPseudoHeader p len = swapOperands g <$> s.buildPseudoHeader p len := by
  simp [State.buildPseudoHeader]

@[simp] theorem swapOperands_udpCompare (e : Half) :
    (swapOperands g s).udpCompare e = swapOperands g <$> s.udpCompare e := by
  simp [State.udpCompare, map_ite]

end

/-! ### The instructions -/

/-- The next state of a chain's answer, changed. -/
theorem settle_map (h : State → State) (x : Except Fault State) : settle (h <$> x) = mapNext h (settle x) := by
  cases x <;> rfl

theorem exec_swapOperands (g : Regs) (i : Instr) (s : State) :
    exec i (swapOperands g s) = mapNext (swapOperands g) (exec i s) := by
  cases i with
  | proc => simp [exec, execProc, ← settle_map, map_ite]; rfl
  | csum => simp [exec, execCsum, ← settle_map, map_ite]
  | csum2 => simp [exec, execCsum2, ← settle_map, map_ite]
  | arpReq => simp [exec, execArpReq, ← settle_map, map_ite]
  | ipv4Unicast => simp [exec, execIpv4Unicast, ← settle_map, map_ite]
  | icmp => simp [exec, execIcmp, ← settle_map, map_ite]
  | icmpEchoReq => simp [exec, execIcmpEchoReq, ← settle_map, map_ite]
  | udp => simp [exec, execUdp, ← settle_map, map_ite]
  | udpCsumNone => simp [exec, execUdpCsumNone, ← settle_map]
  | udpCsumFfff => simp [exec, execUdpCsumFfff, ← settle_map]
  | udpCsum stored => simp [exec, execUdpCsum, ← settle_map]

/-- Settles O49. -/
theorem operandRegistersNotReadWhileRunning : Obligations.OperandRegistersNotReadWhileRunning :=
  fun i s g => exec_swapOperands g i s

end Sys2Proof.Machine
end

section
/-! PROOF. Every step keeps the invariant. The checks a stage has made of its frame depend on the parameters,
RX, TX and the latches only, so each stage hands the earlier ones on and adds its own. -/

namespace Sys2Proof.Machine

/-! ### The checks of a frame depend on what the engine reads -/

/-- The parameters, RX and the latches are as before. -/
structure State.SameFrame (s t : State) : Prop where
  cfg : t.cfg = s.cfg
  rx  : t.rx = s.rx
  lat : t.lat = s.lat

namespace State.SameFrame

variable {s t : State}

theorem mem (h : s.SameFrame t) : t.mem .rx = s.mem .rx := h.rx

theorem readByte (h : s.SameFrame t) (o : Nat) : t.readByte .rx o = s.readByte .rx o :=
  State.readByte_congr h.cfg h.mem o

theorem memRead (h : s.SameFrame t) (o n : Nat) : t.memRead .rx o n = s.memRead .rx o n :=
  State.memRead_congr h.cfg h.mem o n

theorem be16 (h : s.SameFrame t) (o : Nat) : t.be16 .rx o = s.be16 .rx o :=
  State.be16_congr h.cfg h.mem o

theorem etherType (h : s.SameFrame t) : t.etherType = s.etherType := h.be16 12

theorem dstMac (h : s.SameFrame t) : t.dstMac = s.dstMac := h.memRead 0 6

theorem ihl (h : s.SameFrame t) : t.ihl = s.ihl := by simp only [State.ihl, h.readByte]

theorem totalLen (h : s.SameFrame t) : t.totalLen = s.totalLen := by simp only [State.totalLen, h.be16]

theorem udpLength (h : s.SameFrame t) (p : Nat) : t.udpLength p = s.udpLength p := h.be16 (p + 4)

theorem verifies (h : s.SameFrame t) {o n f : Nat} {odd : Bool}
    (hv : ∃ u, s.verify .rx o n odd f = .ok (true, u)) : ∃ u, t.verify .rx o n odd f = .ok (true, u) := by
  obtain ⟨u, hu⟩ := hv
  obtain ⟨saved, ws, hsaved, hws, hpair⟩ := State.verify_eq_ok.1 hu
  refine ⟨t.accRelease, State.verify_eq_ok.2 ⟨saved, ws, ?_, ?_, ?_⟩⟩
  · rw [h.be16, hsaved]
  · rw [State.wordsZ_congr h.cfg h.mem, hws]
  · rw [← (Prod.mk.inj hpair).1]

theorem frameLenOk (h : s.SameFrame t) (hs : s.frameLenOk) : t.frameLenOk := by
  simpa only [State.frameLenOk, h.cfg, h.lat] using hs

theorem ipHeaderOk (h : s.SameFrame t) {ihl : Nat} (hs : s.ipHeaderOk ihl) : t.ipHeaderOk ihl := by
  obtain ⟨hlen, hmin, htype, hdst, hfrag, hihl, hfive, hoff, hsum⟩ := hs
  exact ⟨h.frameLenOk hlen, h.lat ▸ hmin, h.etherType ▸ htype, by rw [h.dstMac, h.cfg, hdst],
    by simpa only [h.be16] using hfrag, h.ihl ▸ hihl, hfive, h.lat ▸ hoff, h.verifies hsum⟩

theorem payloadOk (h : s.SameFrame t) {ihl tl : Nat} (hs : s.payloadOk ihl tl) : t.payloadOk ihl tl := by
  simpa only [State.payloadOk, h.totalLen, h.lat] using hs

theorem pseudoHeaderOk (h : s.SameFrame t) (htx : t.tx = s.tx) {p : Nat} {len : Half}
    (hs : s.pseudoHeaderOk p len) : t.pseudoHeaderOk p len := by
  simpa only [State.pseudoHeaderOk, h.memRead, State.memRead_congr (b := .tx) h.cfg htx] using hs

/-- What the running PROC has checked, in a state at the same encoding. -/
theorem frameOk (h : s.SameFrame t) (htx : t.tx = s.tx) (hphase : t.phase = s.phase) (hs : s.frameOk) :
    t.frameOk := by
  unfold State.frameOk at hs ⊢
  rw [hphase]
  split
  · trivial
  · trivial
  · next hp =>
    simp only [hp] at hs
    exact ⟨h.frameLenOk hs.1, by simpa only [h.etherType, h.dstMac, h.cfg] using hs.2⟩
  · next hp =>
    simp only [hp] at hs
    obtain ⟨ihl, hip, hproto⟩ := hs
    exact ⟨ihl, h.ipHeaderOk hip, by simpa only [h.readByte] using hproto⟩
  · next hp =>
    simp only [hp] at hs
    obtain ⟨ihl, tl, hip, hpay, htype⟩ := hs
    exact ⟨ihl, tl, h.ipHeaderOk hip, h.payloadOk hpay, by rw [h.readByte, htype]⟩
  · next hp =>
    simp only [hp] at hs
    obtain ⟨ihl, tl, len, hip, hpay, hlen, hmin, hmax, hph⟩ := hs
    exact ⟨ihl, tl, len, h.ipHeaderOk hip, h.payloadOk hpay, by rw [h.udpLength, hlen], hmin, hmax,
      h.pseudoHeaderOk htx hph⟩

end State.SameFrame

/-! ### The invariant where the frame is left alone, and where a command ends or goes on -/

theorem State.Inv.fits {s : State} (h : s.Inv) (b : Buf) : (s.mem b).fits (s.size b) := by
  cases b
  · exact h.rx
  · exact h.tx

/-- An act that leaves the command, its frame and the buffers alone keeps the invariant if STATUS and the
ports still agree with it. -/
theorem State.Inv.of_sameFrame {s t : State} (h : s.Inv) (hf : s.SameFrame t) (htx : t.tx = s.tx)
    (hphase : t.phase = s.phase) (hstatus : t.statusOk) (hports : t.portsOk) : t.Inv where
  params := by rw [hf.cfg]; exact h.params
  rx := by rw [hf.cfg, hf.rx]; exact h.rx
  tx := by rw [hf.cfg, htx]; exact h.tx
  status := hstatus
  latch := by simpa only [State.latchOk, hphase, hf.lat] using h.latch
  frame := hf.frameOk htx hphase h.frame
  ports := hports

theorem State.statusOk_congr {s t : State} (hphase : t.phase = s.phase)
    (hdone : t.status.done = s.status.done) (houtcome : t.status.outcome = s.status.outcome)
    (h : s.statusOk) : t.statusOk := by
  simpa only [State.statusOk, hphase, hdone, houtcome] using h

theorem State.portsOk_congr {s t : State} (hcfg : t.cfg = s.cfg) (hregs : t.regs = s.regs)
    (hports : t.ports = s.ports) (h : s.portsOk) : t.portsOk := by
  simpa only [State.portsOk, hcfg, hregs, hports] using h

/-- In IDLE the invariant asks nothing of the latches and the frame. -/
theorem State.Inv.of_idle {t : State} (hparams : t.cfg.wf = true) (hfits : ∀ b, (t.mem b).fits (t.size b))
    (hphase : t.phase = .idle) (hstatus : t.status.done = true ↔ t.status.outcome ≠ .none)
    (hports : t.portsOk) : t.Inv where
  params := hparams
  rx := hfits .rx
  tx := hfits .tx
  status := by simpa only [State.statusOk, hphase] using hstatus
  latch := by simp only [State.latchOk, hphase]
  frame := by simp only [State.frameOk, hphase]
  ports := hports

section
variable {s u : State} (h : s.Inv) (hw : s.WroteBuffers u)
include h hw

/-- The end of a command after writes to the buffers, the registers and the ports. -/
theorem State.Inv.finish {v : State} {code : OutcomeCode} (hcode : code ≠ .none) (hcfg : v.cfg = u.cfg)
    (hmem : ∀ b, v.mem b = u.mem b) (hports : v.portsOk) : (v.finish code).Inv := by
  refine .of_idle (by simpa [hcfg, hw.cfg] using h.params) (fun b => ?_) rfl (by simp [hcode]) hports
  have hsize : (v.finish code).size b = u.size b := State.size_congr hcfg b
  rw [hsize, show (v.finish code).mem b = u.mem b from hmem b]
  exact hw.fits b (h.fits b)

theorem State.Inv.ports_of_wrote : u.portsOk := State.portsOk_congr hw.cfg hw.regs hw.ports h.ports

theorem State.Inv.drop {code : OutcomeCode} (hcode : code ≠ .none) : (u.finish code).Inv :=
  h.finish hw hcode rfl (fun _ => rfl) (h.ports_of_wrote hw)

/-- A transmission of a length inside RX (30_encoding R128). -/
theorem State.Inv.transmit {len : Half} {code : OutcomeCode} (hcode : code ≠ .none)
    (hlen : len.toNat ≤ s.cfg.rxBufBytes) : ((u.emitTransmit len).finish code).Inv := by
  refine h.finish hw hcode rfl (fun b => by cases b <;> rfl) ⟨fun len' hp => ?_, fun off len' hp => ?_⟩
  · obtain rfl : len = len' := by simpa using hp
    exact ⟨rfl, by simpa [hw.cfg] using hlen⟩
  · exact (h.ports_of_wrote hw).2 off len' hp

/-- A hand-off of a datagram inside RX (30_encoding R129, 45_udp R255). -/
theorem State.Inv.handOff {p : Nat} {len : Half} (hlen : p + len.toNat ≤ s.cfg.rxBufBytes) :
    (u.handOff p len).Inv := by
  refine h.finish hw (by decide) rfl (fun b => by cases b <;> rfl) ⟨fun len' hp => ?_, fun off len' hp => ?_⟩
  · exact (h.ports_of_wrote hw).1 len' hp
  · obtain ⟨rfl, rfl⟩ : BitVec.ofNat 16 p = off ∧ len = len' := by simpa using hp
    have hp : (BitVec.ofNat 16 p).toNat ≤ p := by simpa using Nat.mod_le p _
    exact ⟨rfl, rfl, by simp only [State.emitUdpAccept_cfg, hw.cfg]; omega⟩

/-- The end of a checksum command writes CS_RESULT, which no port records (10_state R49). -/
theorem State.Inv.setResult (r : Half) : ((u.accRelease.setResult r).finish .csumOk).Inv :=
  h.finish hw (by decide) rfl (fun b => by cases b <;> rfl)
    (by simpa [State.portsOk] using h.ports_of_wrote hw)

theorem State.Inv.finishCsum (ws : List Half) : (u.finishCsum ws).Inv := by
  rw [State.finishCsum_eq]
  exact h.setResult hw _

/-- A PROC goes on to an encoding with the checks that encoding asks for. -/
theorem State.Inv.enter {f g : Format} (hphase : s.phase = .busy f) (hop : s.lat.op = 0x1)
    (hframe : (u.enter g).frameOk) : (u.enter g).Inv where
  params := by simpa [hw.cfg] using h.params
  rx := hw.fits .rx (h.fits .rx)
  tx := hw.fits .tx (h.fits .tx)
  status := by
    have hdone := h.status
    simp only [State.statusOk, hphase] at hdone
    simpa [State.statusOk, hw.status] using hdone
  latch := by
    have hop' : (u.enter g).lat.op = 0x1 := by simpa [hw.lat] using hop
    cases g
    · exact .inl hop'
    all_goals exact hop'
  frame := hframe
  ports := State.portsOk_congr (s := u) rfl rfl rfl (h.ports_of_wrote hw)

end

theorem State.Inv.drops {s t : State} (h : s.Inv) (hd : s.Drops t) : t.Inv := by
  obtain ⟨code, hcode, rfl | rfl⟩ := hd
  · exact h.drop (.refl s) hcode
  · exact h.drop (.accRelease s) hcode

/-! ### The stages -/

theorem State.ipHeaderOk.ihl {s : State} {ihl : Nat} (h : s.ipHeaderOk ihl) : s.ihl = .ok ihl := by
  obtain ⟨-, -, -, -, -, hihl, -⟩ := h
  exact hihl

theorem State.ipHeaderOk.frameLen {s : State} {ihl : Nat} (h : s.ipHeaderOk ihl) : s.frameLenOk := h.1

/-- The bounds of the parameters (00_scope R8). -/
theorem Params.wf_bounds {p : Params} (h : p.wf = true) : 42 ≤ p.rxBufBytes ∧ 20 ≤ p.txBufBytes := by
  simp only [Params.wf, Bool.and_eq_true, decide_eq_true_eq] at h
  omega

/-- The rows a code word of each encoding can be (30_encoding R101, R106, R113-R115). -/
theorem decode_c_eq_instr {w : Word} {i : Instr} (h : decode (.c w) = .instr i) :
    (w = 0x1 ∧ i = .proc) ∨ i = .csum ∨ i = .csum2 := by
  simp only [decode, decodeCommand] at h
  split_ifs at h with h1 h2 h3
  · exact .inl ⟨h1, (Decoded.instr.inj h).symm⟩
  · exact .inr (.inl (Decoded.instr.inj h).symm)
  · exact .inr (.inr (Decoded.instr.inj h).symm)

theorem decode_ethClass_eq_instr {w : Half} {i : Instr} (h : decode (.ethClass w) = .instr i) :
    i = .arpReq ∨ (w = etherIpv4 ∧ i = .ipv4Unicast) := by
  simp only [decode, decodeEtherType] at h
  split_ifs at h with h1 h2
  · exact .inl (Decoded.instr.inj h).symm
  · exact .inr ⟨h2, (Decoded.instr.inj h).symm⟩

theorem decode_ipProto_eq_instr {b : Byte} {i : Instr} (h : decode (.ipProto b) = .instr i) :
    i = .icmp ∨ i = .udp := by
  simp only [decode, decodeIpProto] at h
  split_ifs at h
  · exact .inl (Decoded.instr.inj h).symm
  · exact .inr (Decoded.instr.inj h).symm

theorem decode_icmpType_eq_instr {b : Byte} {i : Instr} (h : decode (.icmpType b) = .instr i) :
    i = .icmpEchoReq := by
  simp only [decode, decodeIcmpType] at h
  split_ifs at h
  exact (Decoded.instr.inj h).symm

theorem decode_udpCsum_eq_instr {w : Half} {i : Instr} (h : decode (.udpCsum w) = .instr i) :
    i = .udpCsumNone ∨ i = .udpCsumFfff ∨ i = .udpCsum w := by
  simp only [decode, decodeUdpCsum] at h
  split_ifs at h
  · exact .inl (Decoded.instr.inj h).symm
  · exact .inr (.inl (Decoded.instr.inj h).symm)
  · exact .inr (.inr (Decoded.instr.inj h).symm)

section
variable {s t : State} {i : Instr} {raw : Raw} (h : s.Inv)
include h

/-- PROC hands on the length and the class of the frame (41_dispatch R174-R176). -/
theorem State.Inv.exec_c (hp : s.phase = .busy .c) (hf : s.fetch .c = .ok raw) (hd : decode raw = .instr i)
    (hx : exec i s = .next t) : t.Inv := by
  obtain rfl : Raw.c (s.lat.op.setWidth 32) = raw := Except.ok.inj hf
  rcases decode_c_eq_instr hd with ⟨hw, rfl⟩ | rfl | rfl
  · rcases execProc_checks hx with hdrop | ⟨rfl, hlen, hclass⟩
    · exact h.drops hdrop
    · have hop : s.lat.op = 0x1 := by bv_omega
      have hsame : s.SameFrame (s.enter .ethClass) := ⟨rfl, rfl, rfl⟩
      exact h.enter (.refl s) hp hop
        ⟨hsame.frameLenOk hlen, by simpa only [hsame.etherType, hsame.dstMac, hsame.cfg] using hclass⟩
  · rcases execCsum_next hx with rfl | ⟨ws, -, rfl⟩
    · exact h.drop (.refl s) (by decide)
    · exact h.finishCsum (.refl s) ws
  · rcases execCsum2_next hx with rfl | ⟨wa, wb, -, -, rfl⟩
    · exact h.drop (.refl s) (by decide)
    · exact h.finishCsum (.refl s) (wa ++ wb)

/-- The EtherType row ends with ARP's reply, or hands on a checked IPv4 header (43_ipv4 R211-R215). -/
theorem State.Inv.exec_ethClass (hp : s.phase = .busy .ethClass) (hf : s.fetch .ethClass = .ok raw)
    (hd : decode raw = .instr i) (hx : exec i s = .next t) : t.Inv := by
  obtain ⟨w, hw, hraw⟩ := bind_eq_ok.1 hf
  obtain rfl := Except.ok.inj hraw
  have hop : s.lat.op = 0x1 := by simpa only [State.latchOk, hp] using h.latch
  have hframe := h.frame
  simp only [State.frameOk, hp] at hframe
  obtain ⟨hlen, hclass⟩ := hframe
  rcases decode_ethClass_eq_instr hd with rfl | ⟨rfl, rfl⟩
  · rcases execArpReq_checks hx with hdrop | ⟨u, hu, rfl⟩
    · exact h.drops hdrop
    · exact h.transmit (.arpBuildReply hu) (by decide) (Params.wf_bounds h.params).1
  · rcases execIpv4Unicast_checks hx with hdrop | ⟨rfl, hmin, hfrag, ⟨ihl, hihl, hfive, hoff, hsum⟩, hproto⟩
    · exact h.drops hdrop
    · have hdst : s.dstMac = .ok s.cfg.deviceMac.bytes := by
        rcases hclass with ⟨-, hdst⟩ | ⟨htype, -⟩
        · exact hdst
        · exact absurd (Except.ok.inj (hw.symm.trans htype)) (by decide)
      have hip : s.ipHeaderOk ihl := ⟨hlen, hmin, hw, hdst, hfrag, hihl, hfive, hoff, hsum⟩
      have hsame : s.SameFrame (s.accRelease.enter .ipProto) := ⟨rfl, rfl, rfl⟩
      exact h.enter (.accRelease s) hp hop
        ⟨ihl, hsame.ipHeaderOk hip, by simpa only [hsame.readByte] using hproto⟩

/-- The protocol's row hands on the payload's lengths, UDP with its pseudo-header (44_icmp R231, R232,
45_udp R251, R252). -/
theorem State.Inv.exec_ipProto (hp : s.phase = .busy .ipProto) (hf : s.fetch .ipProto = .ok raw)
    (hd : decode raw = .instr i) (hx : exec i s = .next t) : t.Inv := by
  obtain ⟨b, -, hraw⟩ := bind_eq_ok.1 hf
  obtain rfl := Except.ok.inj hraw
  have hop : s.lat.op = 0x1 := by simpa only [State.latchOk, hp] using h.latch
  have hframe := h.frame
  simp only [State.frameOk, hp] at hframe
  obtain ⟨ihl, hip, -⟩ := hframe
  have hihl : s.ihl = .ok ihl := hip.ihl
  rcases decode_ipProto_eq_instr hd with rfl | rfl
  · rcases execIcmp_checks hx with hdrop | ⟨rfl, ihl', tl, hihl', hpay, htype⟩
    · exact h.drops hdrop
    · obtain rfl : ihl = ihl' := Except.ok.inj (hihl.symm.trans hihl')
      have hsame : s.SameFrame (s.enter .icmpType) := ⟨rfl, rfl, rfl⟩
      exact h.enter (.refl s) hp hop
        ⟨ihl, tl, hsame.ipHeaderOk hip, hsame.payloadOk hpay, (hsame.readByte _).trans htype⟩
  · rcases execUdp_checks hx with hdrop | ⟨ihl', tl, len, u, hihl', hpay, hlen, hmin, hmax, hu, rfl⟩
    · exact h.drops hdrop
    · obtain rfl : ihl = ihl' := Except.ok.inj (hihl.symm.trans hihl')
      have hw : s.WroteBuffers u := .buildPseudoHeader hu
      obtain ⟨hrx, hph⟩ := State.buildPseudoHeader_bytes (Params.wf_bounds h.params).2 hu
      have hsame : s.SameFrame (u.enter .udpCsum) := ⟨hw.cfg, hrx, hw.lat⟩
      have hback : u.SameFrame (u.enter .udpCsum) := ⟨rfl, rfl, rfl⟩
      exact h.enter hw hp hop ⟨ihl, tl, len, hsame.ipHeaderOk hip, hsame.payloadOk hpay,
        (hsame.udpLength _).trans hlen, hmin, hmax, hback.pseudoHeaderOk rfl hph⟩

/-- The echo reply has the latched length, which PROC has checked (44_icmp R239). -/
theorem State.Inv.exec_icmpType (hp : s.phase = .busy .icmpType) (hf : s.fetch .icmpType = .ok raw)
    (hd : decode raw = .instr i) (hx : exec i s = .next t) : t.Inv := by
  obtain ⟨_, -, hf⟩ := bind_eq_ok.1 hf
  obtain ⟨_, -, hraw⟩ := bind_eq_ok.1 hf
  obtain rfl := Except.ok.inj hraw
  have hframe := h.frame
  simp only [State.frameOk, hp] at hframe
  obtain ⟨ihl, tl, ⟨⟨-, hlen⟩, -⟩, -⟩ := hframe
  obtain rfl := decode_icmpType_eq_instr hd
  rcases execIcmpEchoReq_next hx with rfl | ⟨_, _, u, -, -, hu, rfl⟩
  · exact h.drop (.accRelease s) (by decide)
  · have hw := (State.WroteBuffers.accRelease s).trans (.icmpBuildReply hu)
    exact h.transmit hw (by decide) (by rw [hw.lat]; exact hlen)

/-- The datagram that is handed off lies inside the frame, as UDP has checked (45_udp R251, R255). -/
theorem State.Inv.exec_udpCsum (hp : s.phase = .busy .udpCsum) (hf : s.fetch .udpCsum = .ok raw)
    (hd : decode raw = .instr i) (hx : exec i s = .next t) : t.Inv := by
  obtain ⟨_, -, hf⟩ := bind_eq_ok.1 hf
  obtain ⟨_, -, hraw⟩ := bind_eq_ok.1 hf
  obtain rfl := Except.ok.inj hraw
  have hframe := h.frame
  simp only [State.frameOk, hp] at hframe
  obtain ⟨ihl, tl, len, hip, ⟨-, hmin, htl⟩, hlen, -, hmax, -⟩ := hframe
  have hihl : s.ihl = .ok ihl := hip.ihl
  have hbound : s.lat.frameLen.toNat ≤ s.cfg.rxBufBytes := hip.frameLen.2
  have hinside : ∀ ihl' len', s.ihl = .ok ihl' → s.udpLength (payloadOff ihl') = .ok len' →
      payloadOff ihl' + len'.toNat ≤ s.cfg.rxBufBytes := by
    intro ihl' len' hihl' hlen'
    obtain rfl : ihl = ihl' := Except.ok.inj (hihl.symm.trans hihl')
    obtain rfl : len = len' := Except.ok.inj (hlen.symm.trans hlen')
    simp only [payloadOff]
    omega
  have hcompare : ∀ e, s.udpCompare e = .ok t → t.Inv := by
    intro e he
    obtain ⟨ihl', len', _, hihl', hlen', -, ⟨-, rfl⟩ | ⟨-, rfl⟩⟩ := State.udpCompare_eq_ok he
    · exact h.drop (.accRelease s) (by decide)
    · exact h.handOff (.accRelease s) (hinside ihl' len' hihl' hlen')
  rcases decode_udpCsum_eq_instr hd with rfl | rfl | rfl
  · obtain ⟨ihl', len', hihl', hlen', rfl⟩ := execUdpCsumNone_next hx
    exact h.handOff (.refl s) (hinside ihl' len' hihl' hlen')
  · exact hcompare _ (settle_eq_next.1 hx)
  · exact hcompare _ (settle_eq_next.1 hx)

theorem State.Inv.engineStep (he : s.engineStep = .next t) : t.Inv := by
  rcases State.engineStep_next he with ⟨-, rfl⟩ | ⟨f, raw, hp, hf, ⟨i, hd, hx⟩ | ⟨r, -, rfl⟩⟩
  · exact h
  · cases f with
    | c => exact h.exec_c hp hf hd hx
    | ethClass => exact h.exec_ethClass hp hf hd hx
    | ipProto => exact h.exec_ipProto hp hf hd hx
    | icmpType => exact h.exec_icmpType hp hf hd hx
    | udpCsum => exact h.exec_udpCsum hp hf hd hx
  · exact h.drop (.refl s) (by cases r <;> decide)

/-! ### The outside world -/

theorem State.Inv.cmdWrite (w : Word) : (s.cmdWrite w).Inv := by
  rcases s.cmdWrite_cases w with ⟨-, e⟩ | ⟨-, hw, e⟩ | ⟨-, -, e⟩ <;> rw [e]
  · exact h.of_sameFrame ⟨rfl, rfl, rfl⟩ rfl rfl (State.statusOk_congr rfl rfl rfl h.status) h.ports
  · exact { params := h.params, rx := h.rx, tx := h.tx, status := rfl, frame := trivial, ports := h.ports
            latch := by
              simp only [State.latchOk, State.accept_phase, State.accept_lat, latchOperands_op]
              rcases hw with rfl | rfl | rfl <;> decide }
  · exact .of_idle h.params h.fits rfl (by simp) h.ports

theorem State.Inv.writeReg {r : Reg} {v : Word} (hw : s.writeReg r v = .next t) : t.Inv := by
  rcases State.writeReg_next hw with ⟨-, rfl⟩ | ⟨-, rfl⟩ | ⟨-, -, -, rfl⟩
  · exact h.cmdWrite v
  · exact h.of_sameFrame ⟨rfl, rfl, rfl⟩ rfl rfl (State.statusOk_congr (s := s) rfl (by simp) (by simp) h.status) h.ports
  · exact h.of_sameFrame ⟨rfl, rfl, rfl⟩ rfl rfl h.status (by simpa [State.portsOk] using h.ports)

/-- The host writes a buffer in IDLE only (70_reset R295). -/
theorem State.Inv.hostWriteBytes {b : Buf} {o : Nat} {bs : List Byte}
    (hw : s.hostWriteBytes b o bs = .next t) : t.Inv := by
  have hfits : ∀ b', (t.mem b').fits (t.size b') := fun b' => State.hostWriteBytes_fits hw (h.fits b')
  obtain ⟨hidle, -, -, rfl⟩ := State.hostWriteBytes_next hw
  have hstatus := h.status
  simp only [State.statusOk, hidle] at hstatus
  exact .of_idle (by simpa using h.params) hfits (by simpa using hidle) (by simpa using hstatus)
    (State.portsOk_congr (by simp) (by simp) (by simp) h.ports)

theorem State.Inv.adapterTake (ht : s.adapterTake = .next t) : t.Inv := by
  rcases State.adapterTake_next ht with ⟨-, rfl⟩ | ⟨_, _, -, -, -, rfl⟩
  · exact h
  · exact h.of_sameFrame ⟨rfl, rfl, rfl⟩ rfl rfl h.status ⟨by simp, h.ports.2⟩

theorem State.Inv.udpTake (ht : s.udpTake = .next t) : t.Inv := by
  rcases State.udpTake_next ht with ⟨-, rfl⟩ | ⟨_, _, _, -, -, -, rfl⟩
  · exact h
  · exact h.of_sameFrame ⟨rfl, rfl, rfl⟩ rfl rfl h.status ⟨h.ports.1, by simp⟩

theorem State.Inv.hardReset : s.hardReset.Inv :=
  .of_idle h.params (fun b => by cases b <;> exact Memory.nil_fits _) rfl (by simp [Status.reset])
    ⟨by simp, by simp⟩

/-- The script and the records of the outside world are no part of the invariant. -/
theorem State.Inv.withEnv (env : Env) : State.Inv { s with env := env } :=
  h.of_sameFrame ⟨rfl, rfl, rfl⟩ rfl rfl h.status h.ports

theorem State.Inv.act {op : EnvOp} (ha : s.act op = .next t) : t.Inv := by
  rcases State.act_next ha with ⟨r, v, -, hw⟩ | ⟨b, o, bs, hw⟩ | ⟨v, rfl⟩ | ht | ht | ⟨-, rfl⟩ | rfl
  · exact h.writeReg hw
  · exact h.hostWriteBytes hw
  · exact h.withEnv _
  · exact h.adapterTake ht
  · exact h.udpTake ht
  · exact h.hardReset
  · exact h

end

/-- Settles O43: a step is an engine step or an act of the outside world, and each keeps the invariant. -/
theorem stepKeepsInvariant : Obligations.StepKeepsInvariant := by
  unfold Obligations.StepKeepsInvariant
  intro s t h hstep
  rcases step_next hstep with ⟨ops, he⟩ | ⟨op, rest, -, ha⟩
  · exact (h.withEnv { s.env with script := ops }).engineStep he
  · exact (h.withEnv { s.env with script := rest }).act ha

end Sys2Proof.Machine
end

section
/-! PROOF. What a platform address reaches, and what a host access there does: the register block, the two
windows, and the addresses in neither. -/

namespace Sys2Proof.Machine

/-! ### The register block -/

theorem Reg.offset_mod_four (r : Reg) : r.offset % 4 = 0 := by cases r <;> rfl

/-- The register block is full: every multiple of 4 in it is a register's offset (10_state R33). -/
theorem Reg.exists_offset {off : Nat} (hlt : off < 0x40) (hmod : off % 4 = 0) : ∃ r : Reg, r.offset = off := by
  have key : ∀ off < 0x40, off % 4 = 0 → ∃ r ∈ Reg.all, r.offset = off := by decide
  obtain ⟨r, -, hr⟩ := key off hlt hmod
  exact ⟨r, hr⟩

/-- A 32-bit access at a register's offset reaches the register (20_memory R78). -/
theorem State.resolve_reg {s : State} {addr : Nat} {r : Reg} (hin : inSpan addr s.cfg.regBase 0x40 = true)
    (hr : r.offset = addr - s.cfg.regBase) : s.resolve addr .b32 = .ok (.reg r) := by
  unfold State.resolve
  rw [if_pos hin, Reg.at?_eq_some.2 hr]

/-- An access to the block of another width, or at another place, is refused (20_memory R78). -/
theorem State.resolve_badShape {s : State} {addr : Nat} {w : Width}
    (hin : inSpan addr s.cfg.regBase 0x40 = true)
    (hshape : ¬(w = .b32 ∧ (addr - s.cfg.regBase) % 4 = 0)) :
    s.resolve addr w = .error (.registerAccessShape addr) := by
  unfold State.resolve
  rw [if_pos hin]
  cases hat : Reg.at? (addr - s.cfg.regBase) with
  | none => rfl
  | some r =>
    have hmod : (addr - s.cfg.regBase) % 4 = 0 := Reg.at?_eq_some.1 hat ▸ r.offset_mod_four
    cases w with
    | b32 => exact absurd ⟨rfl, hmod⟩ hshape
    | b8 => rfl
    | b16 => rfl
    | b64 => rfl

/-! ### An access by what its address reaches -/

section
variable {s : State} {addr : Nat} {w : Width}

theorem State.hostStore_error {e : Refusal} (h : s.resolve addr w = .error e) (v : Word) :
    s.hostStore addr w v = .refused e := by
  simp [State.hostStore, h]

theorem State.hostStore_reg {r : Reg} (h : s.resolve addr w = .ok (.reg r)) (v : Word) :
    s.hostStore addr w v = s.writeReg r v := by
  simp [State.hostStore, h]

theorem State.hostStore_window {b : Buf} {off : Nat} (h : s.resolve addr w = .ok (.window b off)) (v : Word) :
    s.hostStore addr w v = s.hostWriteBytes b off (splitBytes s.cfg.hostEndian w v) := by
  simp [State.hostStore, h]

theorem State.hostLoad_error {e : Refusal} (h : s.resolve addr w = .error e) :
    s.hostLoad addr w = .refused e := by
  simp [State.hostLoad, h]

theorem State.hostLoad_reg {r : Reg} (h : s.resolve addr w = .ok (.reg r)) :
    s.hostLoad addr w = .next (s.logRead (.load addr w) (s.readReg r)) := by
  simp [State.hostLoad, h]

theorem State.hostLoad_window {b : Buf} {off : Nat} {bs : List Byte}
    (h : s.resolve addr w = .ok (.window b off)) (hidle : s.phase = .idle)
    (hread : s.memRead b off w.bytes = .ok bs) :
    s.hostLoad addr w = .next (s.logRead (.load addr w) (joinBytes s.cfg.hostEndian bs)) := by
  simp [State.hostLoad, h, hidle, hread]

end

/-- A step whose access reaches nothing is refused, in IDLE and in BUSY. -/
theorem step_access_error {s : State} {op : EnvOp} {addr : Nat} {w : Width} {rest : List EnvOp} {e : Refusal}
    (hs : s.env.script = op :: rest) (hop : (∃ v, op = .store addr w v) ∨ op = .load addr w)
    (h : s.resolve addr w = .error e) : step s = .refused e := by
  have h' : (s.withScript rest).resolve addr w = .error e := by simpa using h
  rcases hop with ⟨v, rfl⟩ | rfl
  · exact (step_act hs (.inl (by simp)) (by simp)).trans (State.hostStore_error h' v)
  · exact (step_act hs (.inl (by simp)) (by simp)).trans (State.hostLoad_error h')

/-- Settles O34: in the block an address resolves to the register at its offset, or to a refusal. -/
theorem registerAccessShape : Obligations.RegisterAccessShape := by
  unfold Obligations.RegisterAccessShape
  intro s addr w hlow hhigh
  have hin : inSpan addr s.cfg.regBase 0x40 = true := inSpan_iff.2 ⟨hlow, hhigh⟩
  refine ⟨fun hshape => ?_, ?_⟩
  · have h := State.resolve_badShape hin hshape
    exact ⟨State.hostStore_error h, State.hostLoad_error h⟩
  · rintro ⟨rfl, hmod⟩
    obtain ⟨r, hr⟩ := Reg.exists_offset (by omega) hmod
    have h := State.resolve_reg hin hr
    exact ⟨r, hr, State.hostStore_reg h, State.hostLoad_reg h⟩

/-! ### The windows -/

theorem State.winBase_eq (s : State) (b : Buf) : s.winBase b = windowStart s.cfg b := by cases b <;> rfl

/-- Where the windows do not overlap, byte `off` of a window is reached at `off` from its start (20_memory
R71, R72). -/
theorem State.resolve_windowStart {s : State} {b : Buf} {off : Nat} (hapart : WindowsApart s.cfg)
    (hoff : off < s.size b) (w : Width) :
    s.resolve (windowStart s.cfg b + off) w = s.windowTarget b (windowStart s.cfg b + off) off w := by
  obtain ⟨hregRx, hregTx, hrxTx⟩ := hapart
  cases b with
  | rx =>
    have hrx : off < s.cfg.rxBufBytes := hoff
    have h := State.resolve_rx (s := s) (addr := windowStart s.cfg .rx + off) w
      (by rw [inSpan_iff]; omega) (by rw [inSpan_iff, s.winBase_eq]; omega)
    rwa [s.winBase_eq, Nat.add_sub_cancel_left] at h
  | tx =>
    have htx : off < s.cfg.txBufBytes := hoff
    have hsize : s.size .rx = s.cfg.rxBufBytes := rfl
    have h := State.resolve_tx (s := s) (addr := windowStart s.cfg .tx + off) w
      (by rw [inSpan_iff]; omega) (by rw [inSpan_iff, s.winBase_eq]; omega)
      (by rw [inSpan_iff, s.winBase_eq]; omega)
    rwa [s.winBase_eq, Nat.add_sub_cancel_left] at h

section
variable {s : State} {b : Buf} {addr off : Nat} {w : Width}

theorem State.windowTarget_inside (hw : w ≠ .b64) (hin : off + w.bytes ≤ s.size b) :
    s.windowTarget b addr off w = .ok (.window b off) :=
  (if_neg hw).trans (if_neg (by omega))

theorem State.windowTarget_outside (hw : w ≠ .b64) (hout : s.size b < off + w.bytes) :
    s.windowTarget b addr off w = .error (.windowAccessOutside b off) :=
  (if_neg hw).trans (if_pos hout)

theorem State.windowTarget_wide : s.windowTarget b addr off .b64 = .error (.windowAccessWidth addr) := rfl

end

/-! ### A window write -/

/-- A block write changes no byte but its own. -/
theorem State.readByte_putBytes_outside (s : State) {b b' : Buf} {o a : Nat} {bs : List Byte}
    (h : b' ≠ b ∨ a < o ∨ o + bs.length ≤ a) :
    (s.setMem b ((s.mem b).putBytes o bs)).readByte b' a = s.readByte b' a := by
  by_cases hb : b' = b
  · subst hb
    have ha := h.resolve_left (not_not.2 rfl)
    rw [State.readByte_putBytes, dif_neg (by omega)]
  · exact State.readByte_congr (by simp) (State.mem_setMem_ne s _ hb) a

/-- A host write inside a buffer that no consumer holds stores its bytes (20_memory R80). -/
theorem State.hostWriteBytes_inside {s : State} {b : Buf} {o : Nat} {bs : List Byte} (hidle : s.phase = .idle)
    (hin : o + bs.length ≤ s.size b) (hheld : b = .rx → s.rxHeld = false) :
    s.hostWriteBytes b o bs = .next (s.setMem b ((s.mem b).putBytes o bs)) := by
  have hfree : ¬(decide (b = .rx) && s.rxHeld) = true := by
    rintro h
    obtain ⟨hb, hh⟩ := Bool.and_eq_true_iff.1 h
    simp [hheld (of_decide_eq_true hb)] at hh
  exact (if_neg (by simp [hidle])).trans ((if_neg (by omega)).trans (if_neg hfree))

/-- A host write past a buffer's end is refused (20_memory R80). -/
theorem State.hostWriteBytes_outside {s : State} {b : Buf} {o : Nat} {bs : List Byte} (hidle : s.phase = .idle)
    (hout : s.size b < o + bs.length) : s.hostWriteBytes b o bs = .refused (.windowAccessOutside b o) :=
  (if_neg (by simp [hidle])).trans (if_pos hout)

/-- Settles O36: a `WB` by the two cases of `hostWriteBytes`, a platform access by what its address
resolves to. -/
theorem outsideWindowRefused : Obligations.OutsideWindowRefused := by
  unfold Obligations.OutsideWindowRefused
  refine ⟨fun s b off bs rest hidle hs => ?_, fun s op addr w rest hop hs => ?_⟩
  · have hstep : step s = (s.withScript rest).hostWriteBytes b off bs :=
      step_act hs (.inl (by simp)) (by simp)
    refine ⟨fun hout => ?_, fun hin hheld => ?_⟩
    · exact hstep.trans (State.hostWriteBytes_outside hidle (by simpa using hout))
    · have hin' : off + bs.length ≤ (s.withScript rest).size b := by simpa using hin
      refine ⟨_, hstep.trans (State.hostWriteBytes_inside hidle hin' hheld),
        State.memRead_putBytes _ hin', fun b' o ho => ?_, ?_⟩
      · exact (State.readByte_putBytes_outside _ ho).trans (by simp)
      · simp
  · refine ⟨?_, fun hreg hwin => ?_⟩
    · rintro b off hapart hoff rfl
      refine ⟨fun hw hout => step_access_error hs hop ?_, ?_⟩
      · exact (State.resolve_windowStart hapart hoff w).trans (State.windowTarget_outside hw hout)
      · rintro rfl
        exact step_access_error hs hop (State.resolve_windowStart hapart hoff .b64)
    · refine step_access_error hs hop (State.resolve_unmapped w ?_ ?_ ?_)
      · rw [inSpan_iff]; omega
      · have := hwin .rx
        rw [inSpan_iff, s.winBase_eq]; omega
      · have := hwin .tx
        rw [inSpan_iff, s.winBase_eq]; omega

/-! ### An access of one byte -/

theorem splitBytes_b8 (e : Endian) (v : Word) : splitBytes e .b8 v = [v.setWidth 8] := by
  have hlow : v.extractLsb' 0 8 = v.setWidth 8 := by ext; simp
  cases e <;> simp [splitBytes, wordBytesLe, Width.bytes, hlow]

theorem joinBytes_singleton (e : Endian) (x : Byte) : joinBytes e [x] = x.setWidth 32 := by
  cases e <;> simp [joinBytes, joinBe]

/-- Settles O51: `resolve_windowStart` for the access, then the write or the read of one byte. -/
theorem windowAddressesReachBuffers : Obligations.WindowAddressesReachBuffers := by
  unfold Obligations.WindowAddressesReachBuffers
  intro s b off hapart hoff
  have hreach (w : Width) (hw : w ≠ .b64) (hin : off + w.bytes ≤ s.size b) :
      s.resolve (windowStart s.cfg b + off) w = .ok (.window b off) :=
    (State.resolve_windowStart hapart hoff w).trans (State.windowTarget_inside hw hin)
  have hbyte (rest : List EnvOp) :
      (s.withScript rest).resolve (windowStart s.cfg b + off) .b8 = .ok (.window b off) := by
    simpa using hreach .b8 (by simp) hoff
  refine ⟨hreach, fun v rest hidle hheld hs => ?_, fun x rest hidle hx hs => ?_⟩
  · have hin : off + [v.setWidth 8].length ≤ (s.withScript rest).size b := by simpa using hoff
    have hstep : step s = (s.withScript rest).hostWriteBytes b off [v.setWidth 8] := by
      rw [← splitBytes_b8 s.cfg.hostEndian v]
      exact (step_act hs (.inl (by simp)) (by simp)).trans (State.hostStore_window (hbyte rest) v)
    refine ⟨_, hstep.trans (State.hostWriteBytes_inside hidle hin hheld), ?_, fun b' o ho => ?_⟩
    · exact (State.memRead_eq_ok.1 (State.memRead_putBytes _ hin)).2 0 (by simp)
    · refine (State.readByte_putBytes_outside _ (ho.imp_right fun hne => ?_)).trans (by simp)
      rw [List.length_singleton]
      omega
  · have hread : (s.withScript rest).memRead b off Width.b8.bytes = .ok [x] := by
      simp [Width.bytes, State.memRead, hx]
    have hstep := (step_act hs (.inl (by simp)) (by simp)).trans
      (State.hostLoad_window (hbyte rest) hidle hread)
    rwa [joinBytes_singleton] at hstep

end Sys2Proof.Machine
end

section
/-! PROOF. The bytes of a host access: how a word is split into them and joined from them in either order of
HOST_ENDIAN (log 14), and what a host read records. -/

namespace Sys2Proof.Machine

/-! ### A word by its four bytes -/

theorem word_eq_of_bytes {x y : Word} (h : ∀ k < 4, x.extractLsb' (8 * k) 8 = y.extractLsb' (8 * k) 8) :
    x = y := by
  refine BitVec.eq_of_getLsbD_eq fun i hi => ?_
  have hbit := congrArg (·.getLsbD (i % 8)) (h (i / 8) (by omega))
  simpa [Nat.div_add_mod, Nat.mod_lt] using hbit

/-- The low bytes of a word are its own, and those above are 0. -/
theorem extractLsb'_low_bytes (v : Word) (n : Nat) {k : Nat} (hk : k < 4) :
    ((v.setWidth (8 * n)).setWidth 32).extractLsb' (8 * k) 8 =
      if k < n then v.extractLsb' (8 * k) 8 else 0x00 := by
  refine extractLsb'_eq_of_getLsbD fun i hi => ?_
  have hword : 8 * k + i < 32 := by omega
  by_cases hn : k < n
  · simp [hn, hi, hword, show 8 * k + i < 8 * n by omega]
  · simp [hn, show ¬8 * k + i < 8 * n by omega]

/-! ### Splitting -/

theorem wordBytesLe_eq_map (v : Word) :
    wordBytesLe v = (List.range 4).map fun k => v.extractLsb' (8 * k) 8 := rfl

section
variable {w : Width} {v : Word}

theorem Width.bytes_le_four (hw : w ≠ .b64) : w.bytes ≤ 4 := by
  cases w <;> simp_all [Width.bytes]

theorem splitBytes_length (e : Endian) (hw : w ≠ .b64) : (splitBytes e w v).length = w.bytes := by
  cases e <;> simp [splitBytes, wordBytesLe_eq_map, Width.bytes_le_four hw]

/-- The least significant byte goes to the lowest offset (log 14). -/
theorem splitBytes_little_getElem {k : Nat} (hk : k < (splitBytes .little w v).length) :
    (splitBytes .little w v)[k] = v.extractLsb' (8 * k) 8 := by
  simp [splitBytes, wordBytesLe_eq_map]

/-- The most significant byte goes to the lowest offset (log 14). -/
theorem splitBytes_big_getElem {k : Nat} (hw : w ≠ .b64) (hk : k < (splitBytes .big w v).length) :
    (splitBytes .big w v)[k] = v.extractLsb' (8 * (w.bytes - 1 - k)) 8 := by
  have hlen : ((wordBytesLe v).take w.bytes).length = w.bytes := splitBytes_length .little hw
  simp only [splitBytes, List.getElem_reverse, hlen]
  simp [wordBytesLe_eq_map]

end

/-! ### Joining -/

/-- The first byte is the least significant when the most significant is listed last. -/
theorem joinBe_reverse_cons (b : Byte) (bs : List Byte) :
    joinBe (b :: bs).reverse = joinBe bs.reverse <<< 8 ||| b.setWidth 32 := by
  simp [joinBe]

theorem joinBe_reverse_byte (bs : List Byte) {k : Nat} (hk : k < 4) :
    (joinBe bs.reverse).extractLsb' (8 * k) 8 = byteAt bs k := by
  induction bs generalizing k with
  | nil => simp [joinBe, byteAt]
  | cons b bs ih =>
    rw [joinBe_reverse_cons]
    cases k with
    | zero =>
      refine extractLsb'_eq_of_getLsbD fun i hi => ?_
      simp [byteAt, hi, show i < 32 by omega]
    | succ k =>
      rw [show byteAt (b :: bs) (k + 1) = byteAt bs k from rfl, ← ih (by omega)]
      refine extractLsb'_eq_of_getLsbD fun i hi => ?_
      have hshift : 8 * (k + 1) + i - 8 = 8 * k + i := by omega
      have hhigh : b.getLsbD (8 * (k + 1) + i) = false := BitVec.getLsbD_of_ge _ _ (by omega)
      simp [hi, hshift, hhigh, show 8 * (k + 1) + i < 32 by omega, show ¬8 * (k + 1) + i < 8 by omega,
        BitVec.getLsbD_eq_getElem (x := joinBe bs.reverse) (show 8 * k + i < 32 by omega)]

theorem joinBytes_little_byte (bs : List Byte) {k : Nat} (hk : k < 4) :
    (joinBytes .little bs).extractLsb' (8 * k) 8 = byteAt bs k := joinBe_reverse_byte bs hk

theorem joinBytes_big_byte (bs : List Byte) {k : Nat} (hk : k < 4) :
    (joinBytes .big bs).extractLsb' (8 * k) 8 = byteAt bs.reverse k := by
  rw [← joinBe_reverse_byte bs.reverse hk, List.reverse_reverse]
  rfl

theorem byteAt_of_length_le {bs : List Byte} {k : Nat} (h : bs.length ≤ k) : byteAt bs k = 0x00 :=
  List.getD_eq_default _ _ h

/-- A host read joins exactly the bits the same host write has split, with 0 above them. -/
theorem joinBytes_splitBytes (e : Endian) (w : Width) (v : Word) :
    joinBytes e (splitBytes e w v) = (v.setWidth (8 * w.bytes)).setWidth 32 := by
  have horder : joinBytes e (splitBytes e w v) = joinBytes .little (splitBytes .little w v) := by
    cases e <;> rfl
  have hlow : splitBytes .little w v = (wordBytesLe v).take w.bytes := rfl
  refine word_eq_of_bytes fun k hk => ?_
  rw [horder, joinBytes_little_byte _ hk, extractLsb'_low_bytes v _ hk, hlow]
  by_cases hw : k < w.bytes
  · simp [byteAt, wordBytesLe_eq_map, hk, hw]
  · rw [byteAt_of_length_le ((List.length_take_le _ _).trans (by omega)), if_neg hw]

/-- Settles O35: the access is the block write of the split bytes, and reads back by
`joinBytes_splitBytes`. -/
theorem windowAccessSplit : Obligations.WindowAccessSplit := by
  unfold Obligations.WindowAccessSplit
  intro s addr off w v b hidle hheld hr
  obtain ⟨hw, hin⟩ := State.resolve_window hr
  have hlen : (splitBytes s.cfg.hostEndian w v).length = w.bytes := splitBytes_length _ hw
  have hin' : off + (splitBytes s.cfg.hostEndian w v).length ≤ s.size b := by rwa [hlen]
  have hback := State.memRead_putBytes s hin'
  refine ⟨_, (State.hostStore_window hr v).trans (State.hostWriteBytes_inside hidle hin' hheld),
    fun k hk => ?_, fun b' o ho => ?_, by simp, by simp, by simpa using hidle, by simp, ?_⟩
  · refine ((State.memRead_eq_ok.1 hback).2 k (by rwa [hlen])).trans (congrArg _ ?_)
    split
    · next he => simp only [he, splitBytes_little_getElem]
    · next he => simp only [he, splitBytes_big_getElem hw]
  · exact State.readByte_putBytes_outside s (by rwa [hlen])
  · rw [hlen] at hback
    rw [State.hostLoad_window ((State.resolve_congr (by simp) addr w).trans hr) (by simpa using hidle) hback,
      State.setMem_cfg, joinBytes_splitBytes]

/-! ### Reads by the host -/

theorem step_rd {s : State} {r : Reg} {rest : List EnvOp} (hs : s.env.script = .rd r :: rest) :
    step s = .next ((s.withScript rest).logRead (.rd r) (s.readReg r)) := by
  rw [step_act hs (.inl (by simp)) (by simp), ← s.withScript_readReg rest]
  rfl

theorem step_load {s : State} {addr : Nat} {w : Width} {rest : List EnvOp}
    (hs : s.env.script = .load addr w :: rest) : step s = (s.withScript rest).hostLoad addr w :=
  step_act hs (.inl (by simp)) (by simp)

theorem step_poll_idle {s : State} {rest : List EnvOp} (hs : s.env.script = .poll :: rest)
    (hidle : s.phase = .idle) :
    step s = .next ((s.withScript rest).logRead .poll (s.readReg .status)) := by
  rw [step_act hs (.inr (by simp [hidle])) (by simp), ← s.withScript_readReg rest]
  rfl

/-- Settles O38: each read is `logRead` of a value, which for a window is read byte by byte off
`joinBytes`. -/
theorem readsHaveNoSideEffect : Obligations.ReadsHaveNoSideEffect := by
  unfold Obligations.ReadsHaveNoSideEffect
  refine ⟨fun s t op rest hs hop h => ?_, fun s op rest hs => ⟨fun r hop => ?_, ?_⟩⟩
  · rcases hop with ⟨r, rfl⟩ | ⟨addr, w, rfl⟩ | ⟨rfl, hidle⟩
    · exact ⟨_, Host.Outcome.next.inj (h.symm.trans (step_rd hs))⟩
    · exact State.hostLoad_next ((step_load hs).symm.trans h)
    · exact ⟨_, Host.Outcome.next.inj (h.symm.trans (step_poll_idle hs hidle))⟩
  · rcases hop with rfl | ⟨addr, w, rfl, hr⟩
    · exact step_rd hs
    · have hload := (step_load hs).trans (State.hostLoad_reg (by simpa using hr))
      rwa [State.withScript_readReg] at hload
  · rintro addr w b off bs hidle rfl hr hbs
    have hlen : bs.length = w.bytes := State.memRead_length hbs
    refine ⟨_, (step_load hs).trans
      (State.hostLoad_window (b := b) (off := off) (bs := bs) (by simpa using hr) hidle (by simpa using hbs)),
      fun k hk => ?_⟩
    simp only [State.withScript_cfg]
    by_cases hw : k < w.bytes
    · rw [if_pos hw]
      cases s.cfg.hostEndian with
      | little => exact joinBytes_little_byte bs hk
      | big =>
        rw [joinBytes_big_byte bs hk, ← hlen]
        exact congrFun (List.getD_reverse k (by omega)) 0x00
    · rw [if_neg hw]
      cases s.cfg.hostEndian with
      | little => rw [joinBytes_little_byte bs hk, byteAt_of_length_le (by omega)]
      | big => rw [joinBytes_big_byte bs hk, byteAt_of_length_le (by rw [List.length_reverse]; omega)]

end Sys2Proof.Machine
end

section
/-! PROOF. No step addresses a byte outside a buffer, and a PROC reads RX below FRAME_LEN only (20_memory R84,
R85): the faults a chain of buffer operations can meet, then each stage's with what the invariant says at its
encoding. -/

namespace Sys2Proof.Machine

/-! ### Walking through a chain of buffer operations -/

/-- A byte that nothing has written was read. -/
abbrev Unwritten (e : Fault) : Prop := ∃ b o, e = .unwrittenByte b o

/-- A byte that nothing has written was read in the first `len` bytes of RX. -/
abbrev UnwrittenInFrame (len : Nat) (e : Fault) : Prop := ∃ o, e = .unwrittenByte .rx o ∧ o < len

theorem UnwrittenInFrame.unwritten {len : Nat} {e : Fault} (h : UnwrittenInFrame len e) : Unwritten e := by
  obtain ⟨o, he, -⟩ := h
  exact ⟨.rx, o, he⟩

/-- Whatever fault the operation meets is one of `P`; an answer meets it vacuously. -/
def OnlyFaults {α : Type} (x : Except Fault α) (P : Fault → Prop) : Prop := ∀ e, x = .error e → P e

section
variable {α β : Type} {P : Fault → Prop}

theorem OnlyFaults.ok {a : α} : OnlyFaults (.ok a) P := fun _ h => nomatch h

theorem OnlyFaults.of_eq_ok {x : Except Fault α} {a : α} (h : x = .ok a) : OnlyFaults x P := h ▸ .ok

theorem OnlyFaults.bind {x : Except Fault β} {f : β → Except Fault α} (hx : OnlyFaults x P)
    (hf : ∀ b, x = .ok b → OnlyFaults (f b) P) : OnlyFaults (x >>= f) P := by
  intro e he
  rcases bind_eq_error.1 he with he | ⟨b, hb, he⟩
  · exact hx e he
  · exact hf b hb e he

theorem OnlyFaults.ite {c : Prop} [Decidable c] {x y : Except Fault α} (hx : c → OnlyFaults x P)
    (hy : ¬c → OnlyFaults y P) : OnlyFaults (if c then x else y) P := by
  by_cases h : c
  · simpa [h] using hx h
  · simpa [h] using hy h

/-- What a meaning's chain can meet is what the instruction can fault with. -/
theorem OnlyFaults.of_settle {x : Except Fault State} {e : Fault} (hx : OnlyFaults x P)
    (h : settle x = .fault e) : P e :=
  hx e (settle_eq_fault.1 h)

end

/-! ### Reads of a range of bytes -/

/-- Each of the `n` bytes from offset `o` on is read with a fault of `P` at most. -/
def State.RangeFaults (s : State) (b : Buf) (o n : Nat) (P : Fault → Prop) : Prop :=
  ∀ a, o ≤ a → a < o + n → OnlyFaults (s.readByte b a) P

/-- Inside its buffer a read meets an unwritten byte at most (20_memory R93). -/
theorem State.readByte_onlyFaults {s : State} {b : Buf} {o : Nat} {P : Fault → Prop} (ho : o < s.size b)
    (hP : P (.unwrittenByte b o)) : OnlyFaults (s.readByte b o) P := by
  unfold State.readByte
  rw [if_pos ho]
  cases (s.mem b).get? o with
  | some v => exact .ok
  | none => exact fun e he => Except.error.inj he ▸ hP

namespace State.RangeFaults

variable {s : State} {b : Buf} {o n : Nat} {P : Fault → Prop}

theorem sub (h : s.RangeFaults b o n P) {o' n' : Nat} (hlow : o ≤ o') (hhigh : o' + n' ≤ o + n) :
    s.RangeFaults b o' n' P :=
  fun a h1 h2 => h a (by omega) (by omega)

theorem unwritten (h : o + n ≤ s.size b) : s.RangeFaults b o n Unwritten :=
  fun a _ ha => State.readByte_onlyFaults (by omega) ⟨b, a, rfl⟩

/-- A range that has been read whole faults nowhere. -/
theorem of_memRead {bs : List Byte} (h : s.memRead b o n = .ok bs) : s.RangeFaults b o n P := by
  intro a hlow hhigh
  obtain ⟨hlen, hbyte⟩ := State.memRead_eq_ok.1 h
  have ha := hbyte (a - o) (by omega)
  rw [Nat.add_sub_cancel' hlow] at ha
  exact .of_eq_ok ha

theorem memRead (h : s.RangeFaults b o n P) : OnlyFaults (s.memRead b o n) P := by
  induction n generalizing o with
  | zero => exact .ok
  | succ n ih =>
    exact .bind (h o le_rfl (by omega)) fun v _ => .bind (ih (h.sub (by omega) (by omega))) fun vs _ => .ok

theorem be16 (h : s.RangeFaults b o 2 P) : OnlyFaults (s.be16 b o) P :=
  .bind (h o le_rfl (by omega)) fun _ _ => .bind (h (o + 1) (by omega) (by omega)) fun _ _ => .ok

theorem be32 (h : s.RangeFaults b o 4 P) : OnlyFaults (s.be32 b o) P :=
  .bind (h.sub le_rfl (by omega)).be16 fun _ _ => .bind (h.sub (by omega) (by omega)).be16 fun _ _ => .ok

theorem wholeWords (h : s.RangeFaults b o (2 * n) P) : OnlyFaults (s.wholeWords b o n) P := by
  induction n generalizing o with
  | zero => exact .ok
  | succ n ih =>
    exact .bind (h.sub le_rfl (by omega)).be16 fun w _ =>
      .bind (ih (h.sub (by omega) (by omega))) fun ws _ => .ok

/-- The words of a region are its own bytes, the padding is not read (40_checksum R142). -/
theorem words {odd : Bool} (h : s.RangeFaults b o (2 * n + odd.toNat) P) : OnlyFaults (s.words b o n odd) P := by
  refine .bind (h.sub le_rfl (by omega)).wholeWords fun ws _ => .bind ?_ fun w _ => .ok
  cases odd with
  | false => exact .ok
  | true => exact .bind (h _ (by omega) (by simp)) fun v _ => .ok

end State.RangeFaults

/-- A byte length is its whole words and its odd byte (30_encoding R114, R115). -/
theorem two_mul_half_add_isOdd (n : Nat) : 2 * (n / 2) + (isOdd n).toNat = n := by
  rcases Nat.mod_two_eq_zero_or_one n with h | h <;> simp [isOdd, h] <;> omega

/-! ### The checksum commands -/

theorem State.regionWords_onlyFaults {s : State} {r : Region} {odd : Bool} (h : ¬s.inRange r odd = false) :
    OnlyFaults (s.regionWords r odd) Unwritten :=
  have hend : r.endOff odd ≤ s.size r.sel := of_decide_eq_true (Bool.eq_true_of_not_eq_false h)
  State.RangeFaults.words (.unwritten hend)

/-- R149's check keeps CSUM and CSUM2 inside their buffers. -/
theorem execCsum_fault {s : State} {e : Fault} (h : execCsum s = .fault e) : Unwritten e :=
  OnlyFaults.of_settle
    (.ite (fun _ => .ok) fun ha => .bind (State.regionWords_onlyFaults ha) fun _ _ => .ok) h

theorem execCsum2_fault {s : State} {e : Fault} (h : execCsum2 s = .fault e) : Unwritten e :=
  OnlyFaults.of_settle
    (.ite (fun _ => .ok) fun ha => .ite (fun _ => .ok) fun hb =>
      .bind (State.regionWords_onlyFaults ha) fun _ _ =>
        .bind (State.regionWords_onlyFaults hb) fun _ _ => .ok) h

/-! ### The frame in RX -/

/-- RX holds a frame of `len` bytes, and TX the pseudo-header. -/
structure State.Holds (s : State) (len : Nat) : Prop where
  rx : len ≤ s.size .rx
  tx : 20 ≤ s.size .tx

namespace State.Holds

variable {s : State} {len o n : Nat} (h : s.Holds len)
include h

theorem of_cfg {t : State} (hcfg : t.cfg = s.cfg) : t.Holds len :=
  ⟨by rw [State.size_congr hcfg]; exact h.rx, by rw [State.size_congr hcfg]; exact h.tx⟩

/-! Reads of the frame meet an unwritten byte of the frame at most. -/

theorem range (ho : o + n ≤ len) : s.RangeFaults .rx o n (UnwrittenInFrame len) :=
  fun a _ ha => State.readByte_onlyFaults (by have := h.rx; omega) ⟨a, rfl, by omega⟩

theorem readByte (ho : o < len) : OnlyFaults (s.readByte .rx o) (UnwrittenInFrame len) :=
  h.range (n := 1) ho o le_rfl (by omega)

theorem memRead (ho : o + n ≤ len) : OnlyFaults (s.memRead .rx o n) (UnwrittenInFrame len) := (h.range ho).memRead

theorem be16 (ho : o + 2 ≤ len) : OnlyFaults (s.be16 .rx o) (UnwrittenInFrame len) := (h.range ho).be16

theorem be32 (ho : o + 4 ≤ len) : OnlyFaults (s.be32 .rx o) (UnwrittenInFrame len) := (h.range ho).be32

theorem ihl (hlen : 34 ≤ len) : OnlyFaults s.ihl (UnwrittenInFrame len) :=
  .bind (h.readByte (by omega)) fun _ _ => .ok

theorem totalLen (hlen : 34 ≤ len) : OnlyFaults s.totalLen (UnwrittenInFrame len) :=
  .bind (h.be16 (by omega)) fun _ _ => .ok

theorem words {odd : Bool} (ho : o + (2 * n + odd.toNat) ≤ len) :
    OnlyFaults (s.words .rx o n odd) (UnwrittenInFrame len) := (h.range ho).words

/-! Writes inside a buffer do not fault, and the buffers keep their sizes. -/

section
variable {α : Type} {P : Fault → Prop} {b : Buf}

theorem memWrite_bind {bs : List Byte} {f : State → Except Fault α} (ho : o + bs.length ≤ s.size b)
    (hf : ∀ t, t.Holds len → OnlyFaults (f t) P) : OnlyFaults (s.memWrite b o bs >>= f) P :=
  .bind (.of_eq_ok (State.memWrite_ok ho)) fun t ht => hf t (h.of_cfg (State.WroteBuffers.memWrite ht).cfg)

theorem writeByte_bind {v : Byte} {f : State → Except Fault α} (ho : o < s.size b)
    (hf : ∀ t, t.Holds len → OnlyFaults (f t) P) : OnlyFaults (s.writeByte b o v >>= f) P :=
  .bind (.of_eq_ok (State.writeByte_eq_ok.2 ⟨ho, rfl⟩))
    fun t ht => hf t (h.of_cfg (State.WroteBuffers.writeByte ht).cfg)

omit h in
theorem memWrite {bs : List Byte} (ho : o + bs.length ≤ s.size b) : OnlyFaults (s.memWrite b o bs) P :=
  .of_eq_ok (State.memWrite_ok ho)

end

/-! Verify and generate (40_checksum R150, R151). -/

section
variable {odd : Bool} {f : Nat} (ho : o + (2 * n + odd.toNat) ≤ len) (hf : f + 2 ≤ len)
include ho hf

theorem verify : OnlyFaults (s.verify .rx o n odd f) (UnwrittenInFrame len) :=
  .bind (h.be16 hf) fun _ _ =>
    .bind (h.memWrite_bind (hf.trans h.rx) fun _ hz => hz.words ho) fun _ _ => .ok

theorem generate : OnlyFaults (s.generate .rx o n odd f) (UnwrittenInFrame len) := by
  refine h.memWrite_bind (hf.trans h.rx) fun z hz => .bind (hz.words ho) fun ws _ => ?_
  rw [State.checksum_snd]
  exact memWrite (hf.trans (hz.of_cfg rfl).rx)

end

/-! The replies built in RX, and the pseudo-header in TX. -/

/-- 42_arp R197. -/
theorem arpBuildReply (hlen : 42 ≤ len) : OnlyFaults s.arpBuildReply (UnwrittenInFrame len) := by
  refine .bind (h.memRead (by omega)) fun esrc hesrc => .bind (h.memRead (by omega)) fun sha hsha => ?_
  refine .bind (h.memRead (by omega)) fun spa hspa => .bind (h.memRead (by omega)) fun tpa htpa => ?_
  have lesrc := State.memRead_length hesrc
  have lsha := State.memRead_length hsha
  have lspa := State.memRead_length hspa
  have ltpa := State.memRead_length htpa
  refine h.memWrite_bind (le_trans (by omega) h.rx) fun s h => ?_
  refine h.memWrite_bind (le_trans (show 6 + 6 ≤ len by omega) h.rx) fun s h => ?_
  refine h.memWrite_bind (le_trans (show 20 + 2 ≤ len by omega) h.rx) fun s h => ?_
  refine h.memWrite_bind (le_trans (by omega) h.rx) fun s h => ?_
  refine h.memWrite_bind (le_trans (by omega) h.rx) fun s h => ?_
  refine h.memWrite_bind (le_trans (by omega) h.rx) fun s h => ?_
  exact memWrite (le_trans (show 22 + 6 ≤ len by omega) h.rx)

/-- 44_icmp R235. -/
theorem swapMacs (hlen : 34 ≤ len) : OnlyFaults s.swapMacs (UnwrittenInFrame len) := by
  refine .bind (h.memRead (by omega)) fun m hm => .bind (h.memRead (by omega)) fun src hsrc => ?_
  have lm := State.memRead_length hm
  have lsrc := State.memRead_length hsrc
  exact h.memWrite_bind (le_trans (by omega) h.rx) fun s h => memWrite (le_trans (by omega) h.rx)

/-- 44_icmp R236. -/
theorem swapIps (hlen : 34 ≤ len) : OnlyFaults s.swapIps (UnwrittenInFrame len) := by
  refine .bind (h.memRead (by omega)) fun a ha => .bind (h.memRead (by omega)) fun dst hdst => ?_
  have la := State.memRead_length ha
  have ldst := State.memRead_length hdst
  exact h.memWrite_bind (le_trans (by omega) h.rx) fun s h => memWrite (le_trans (by omega) h.rx)

/-- 44_icmp R234-R238: the header and the message of `ilen` bytes lie inside the frame. -/
theorem icmpBuildReply {ihl ilen : Nat} (hlen : 34 ≤ len) (hmin : 8 ≤ ilen)
    (hmsg : payloadOff ihl + ilen ≤ len) : OnlyFaults (s.icmpBuildReply ihl ilen) (UnwrittenInFrame len) := by
  have hheader : 14 + 4 * ihl ≤ len := le_trans (Nat.le_add_right (payloadOff ihl) ilen) hmsg
  refine h.writeByte_bind (lt_of_lt_of_le (by omega) h.rx) fun s h => ?_
  refine .bind (h.swapMacs hlen) fun t ht => ?_
  have h := h.of_cfg (State.WroteBuffers.swapMacs ht).cfg
  refine .bind (h.swapIps hlen) fun u hu => ?_
  have h := h.of_cfg (State.WroteBuffers.swapIps hu).cfg
  refine .bind (h.generate (by simp; omega) (by omega)) fun v hv => ?_
  have h := h.of_cfg (State.WroteBuffers.generate hv).cfg
  exact h.generate (by rw [two_mul_half_add_isOdd]; exact hmsg) (by omega)

/-- 45_udp R252: TX holds the 20 bytes written, and the addresses and ports lie inside the frame. -/
theorem buildPseudoHeader {p : Nat} {udpLen : Half} (hlen : 34 ≤ len) (hp : p + 4 ≤ len) :
    OnlyFaults (s.buildPseudoHeader p udpLen) (UnwrittenInFrame len) := by
  refine .bind (h.memRead (by omega)) fun src hsrc => ?_
  have lsrc := State.memRead_length hsrc
  refine h.memWrite_bind (le_trans (by omega) h.tx) fun s h => ?_
  refine .bind (h.memRead (by omega)) fun dst hdst => ?_
  have ldst := State.memRead_length hdst
  refine h.memWrite_bind (le_trans (by omega) h.tx) fun s h => ?_
  refine h.writeByte_bind (lt_of_lt_of_le (by decide) h.tx) fun s h => ?_
  refine h.writeByte_bind (lt_of_lt_of_le (by decide) h.tx) fun s h => ?_
  refine h.memWrite_bind (le_trans (show 10 + 2 ≤ 20 by decide) h.tx) fun s h => ?_
  refine .bind (h.memRead hp) fun ports hports => ?_
  have lports := State.memRead_length hports
  refine h.memWrite_bind (le_trans (by omega) h.tx) fun s h => ?_
  refine h.memWrite_bind (le_trans (show 16 + 2 ≤ 20 by decide) h.tx) fun s h => ?_
  exact memWrite (le_trans (show 18 + 2 ≤ 20 by decide) h.tx)

end State.Holds

/-! ### The stages of a PROC -/

section
variable {s : State} {e : Fault}

/-- 41_dispatch R174-R176: the length is checked before the first byte is read. -/
theorem execProc_fault (htx : 20 ≤ s.size .tx) (he : execProc s = .fault e) :
    UnwrittenInFrame s.lat.frameLen.toNat e := by
  refine OnlyFaults.of_settle (.ite (fun _ => .ok) fun hlen => ?_) he
  have h : s.Holds s.lat.frameLen.toNat := ⟨by simp only [State.size]; omega, htx⟩
  refine .bind (h.be16 (by omega)) fun et _ => .ite (fun _ => .ok) fun _ => ?_
  refine .bind (h.memRead (by omega)) fun dst _ => .ite (fun _ => ?_) fun _ => .ite (fun _ => ?_) fun _ => .ok
  · exact .ite (fun _ => .ok) fun _ => .ok
  · exact .ite (fun _ => .ok) fun _ => .ok

variable (h : s.Holds s.lat.frameLen.toNat)
include h

/-- 42_arp R191: 42 bytes are all the fields of the request and the reply. -/
theorem execArpReq_fault (he : execArpReq s = .fault e) : UnwrittenInFrame s.lat.frameLen.toNat e := by
  refine OnlyFaults.of_settle (.ite (fun _ => .ok) fun hlen => ?_) he
  refine .bind (h.be16 (by omega)) fun htype _ => .ite (fun _ => .ok) fun _ => ?_
  refine .bind (h.be16 (by omega)) fun ptype _ => .ite (fun _ => .ok) fun _ => ?_
  refine .bind (h.be16 (by omega)) fun oper _ => .ite (fun _ => .ok) fun _ => .ite (fun _ => .ok) fun _ => ?_
  refine .bind (h.be32 (by omega)) fun tpa _ => .ite (fun _ => .ok) fun _ => ?_
  exact .bind (h.arpBuildReply (by omega)) fun t _ => .ok

/-- 43_ipv4 R211, R213: the header lies inside the frame before it is summed. -/
theorem execIpv4Unicast_fault (he : execIpv4Unicast s = .fault e) :
    UnwrittenInFrame s.lat.frameLen.toNat e := by
  refine OnlyFaults.of_settle (.ite (fun _ => .ok) fun hlen => ?_) he
  refine .bind (h.be16 (by omega)) fun ff _ => .ite (fun _ => .ok) fun _ => ?_
  refine .bind (h.ihl (by omega)) fun ihl _ => .ite (fun _ => .ok) fun hihl => ?_
  simp only [payloadOff] at hihl
  refine .bind (h.verify (by simp; omega) (by omega)) fun v hv => .ite (fun _ => .ok) fun _ => ?_
  obtain ⟨_, _, -, -, rfl⟩ := State.verify_eq_ok.1 hv
  refine .bind ((h.of_cfg rfl).readByte (by omega)) fun proto _ => ?_
  exact .ite (fun _ => .ok) fun _ => .ok

variable (hlen : 34 ≤ s.lat.frameLen.toNat)
include hlen

/-- 44_icmp R231: the message lies inside the frame before its type is read. -/
theorem execIcmp_fault (he : execIcmp s = .fault e) : UnwrittenInFrame s.lat.frameLen.toNat e := by
  refine OnlyFaults.of_settle (.bind (h.ihl hlen) fun ihl _ => .bind (h.totalLen hlen) fun tl _ => ?_) he
  refine .ite (fun _ => .ok) fun hmsg => .bind (h.readByte (by simp only [payloadOff]; omega)) fun ty _ => ?_
  exact .ite (fun _ => .ok) fun _ => .ok

/-- 45_udp R251: the UDP header lies inside the frame before its fields are read. -/
theorem execUdp_fault (he : execUdp s = .fault e) : UnwrittenInFrame s.lat.frameLen.toNat e := by
  refine OnlyFaults.of_settle (.bind (h.ihl hlen) fun ihl _ => .bind (h.totalLen hlen) fun tl _ => ?_) he
  refine .ite (fun _ => .ok) fun hmsg => ?_
  have hp : payloadOff ihl + 8 ≤ s.lat.frameLen.toNat := by simp only [payloadOff]; omega
  refine .bind (h.be16 (by omega)) fun len _ => .ite (fun _ => .ok) fun _ => ?_
  exact .bind (h.buildPseudoHeader hlen (by omega)) fun t _ => .ok

/-- The echo request that ICMP has checked is summed and answered inside the frame (44_icmp R233-R239). -/
theorem execIcmpEchoReq_fault {ihl tl : Nat} (hihl : s.ihl = .ok ihl) (hpay : s.payloadOk ihl tl)
    (he : execIcmpEchoReq s = .fault e) : UnwrittenInFrame s.lat.frameLen.toNat e := by
  obtain ⟨htl, hmin, hmax⟩ := hpay
  have hmsg : payloadOff ihl + (tl - 4 * ihl) ≤ s.lat.frameLen.toNat := by simp only [payloadOff]; omega
  rw [execIcmpEchoReq, hihl, htl, ok_bind, ok_bind] at he
  refine OnlyFaults.of_settle (.bind (h.verify ?_ (by omega)) fun v hv => .ite (fun _ => .ok) fun _ => ?_) he
  · rw [two_mul_half_add_isOdd]
    exact hmsg
  · obtain ⟨_, _, -, -, rfl⟩ := State.verify_eq_ok.1 hv
    have hsum : s.accRelease.Holds s.lat.frameLen.toNat := h.of_cfg rfl
    exact .bind (hsum.icmpBuildReply hlen (by omega) hmsg) fun t _ => .ok

omit hlen in
/-- The comparison sums the pseudo-header in TX and the datagram inside the frame (45_udp R254). -/
theorem State.udpCompare_onlyFaults {ihl tl : Nat} {len expected : Half} (hihl : s.ihl = .ok ihl)
    (hpay : s.payloadOk ihl tl) (hudp : s.udpLength (payloadOff ihl) = .ok len) (hmin : 8 ≤ len.toNat)
    (hmax : len.toNat ≤ tl - 4 * ihl) (hph : s.pseudoHeaderOk (payloadOff ihl) len) :
    OnlyFaults (s.udpCompare expected) (UnwrittenInFrame s.lat.frameLen.toNat) := by
  obtain ⟨-, htl, hframe⟩ := hpay
  obtain ⟨_, _, _, -, -, -, htx⟩ := hph
  have hdata : payloadOff ihl + 8 + (len.toNat - 8) ≤ s.lat.frameLen.toNat := by simp only [payloadOff]; omega
  rw [State.udpCompare, hihl, ok_bind, hudp, ok_bind]
  refine .bind ?_ fun ws _ => .ite (fun _ => .ok) fun _ => .ok
  refine .bind (State.RangeFaults.words (.of_memRead htx)) fun wa _ => .bind (h.words ?_) fun wb _ => .ok
  rw [two_mul_half_add_isOdd]
  exact hdata

omit h hlen in
/-- A datagram without a checksum is handed off by the length UDP has read (45_udp R253). -/
theorem execUdpCsumNone_ne_fault {ihl : Nat} {len : Half} (hihl : s.ihl = .ok ihl)
    (hudp : s.udpLength (payloadOff ihl) = .ok len) : execUdpCsumNone s ≠ .fault e := by
  rw [execUdpCsumNone, hihl, ok_bind, hudp, ok_bind]
  simp

end

/-! ### The engine under the invariant -/

section
variable {s : State} {raw : Raw} {i : Instr} {e : Fault} (h : s.Inv)
include h

theorem State.Inv.holds (hlen : s.frameLenOk) : s.Holds s.lat.frameLen.toNat :=
  ⟨hlen.2, (Params.wf_bounds h.params).2⟩

omit h in
theorem State.ipHeaderOk.min {ihl : Nat} (hip : s.ipHeaderOk ihl) : 34 ≤ s.lat.frameLen.toNat := by
  obtain ⟨-, hmin, -⟩ := hip
  exact hmin

/-- At each encoding what the engine reads next is a field of the frame (30_encoding R130). -/
theorem State.Inv.fetch_fault {f : Format} (hp : s.phase = .busy f) :
    OnlyFaults (s.fetch f) (UnwrittenInFrame s.lat.frameLen.toNat) := by
  have hframe := h.frame
  simp only [State.frameOk, hp] at hframe
  cases f with
  | c => exact .ok
  | ethClass =>
    obtain ⟨hlen, -⟩ := hframe
    exact .bind ((h.holds hlen).be16 (by have := hlen.1; omega)) fun _ _ => .ok
  | ipProto =>
    obtain ⟨ihl, hip, -⟩ := hframe
    exact .bind ((h.holds hip.frameLen).readByte (by have := hip.min; omega)) fun _ _ => .ok
  | icmpType =>
    obtain ⟨ihl, tl, hip, -, htype⟩ := hframe
    rw [State.fetch, hip.ihl, ok_bind, htype]
    exact .ok
  | udpCsum =>
    obtain ⟨ihl, tl, len, hip, ⟨-, hmin, hmax⟩, -⟩ := hframe
    rw [State.fetch, hip.ihl, ok_bind]
    exact .bind ((h.holds hip.frameLen).be16 (by simp only [payloadOff]; omega)) fun _ _ => .ok

/-- At each wire encoding what the earlier stages have checked keeps the next one inside the frame. -/
theorem State.Inv.exec_fault_of_wire {f : Format} (hp : s.phase = .busy f) (hwire : f ≠ .c)
    (hf : s.fetch f = .ok raw) (hd : decode raw = .instr i) (hx : exec i s = .fault e) :
    UnwrittenInFrame s.lat.frameLen.toNat e := by
  have hframe := h.frame
  simp only [State.frameOk, hp] at hframe
  cases f with
  | c => exact absurd rfl hwire
  | ethClass =>
    obtain ⟨_, -, hraw⟩ := bind_eq_ok.1 hf
    obtain rfl := Except.ok.inj hraw
    have hholds := h.holds hframe.1
    rcases decode_ethClass_eq_instr hd with rfl | ⟨-, rfl⟩
    · exact execArpReq_fault hholds hx
    · exact execIpv4Unicast_fault hholds hx
  | ipProto =>
    obtain ⟨_, -, hraw⟩ := bind_eq_ok.1 hf
    obtain rfl := Except.ok.inj hraw
    obtain ⟨ihl, hip, -⟩ := hframe
    rcases decode_ipProto_eq_instr hd with rfl | rfl
    · exact execIcmp_fault (h.holds hip.frameLen) hip.min hx
    · exact execUdp_fault (h.holds hip.frameLen) hip.min hx
  | icmpType =>
    obtain ⟨_, -, hf⟩ := bind_eq_ok.1 hf
    obtain ⟨_, -, hraw⟩ := bind_eq_ok.1 hf
    obtain rfl := Except.ok.inj hraw
    obtain ⟨ihl, tl, hip, hpay, -⟩ := hframe
    obtain rfl := decode_icmpType_eq_instr hd
    exact execIcmpEchoReq_fault (h.holds hip.frameLen) hip.min hip.ihl hpay hx
  | udpCsum =>
    obtain ⟨_, -, hf⟩ := bind_eq_ok.1 hf
    obtain ⟨_, -, hraw⟩ := bind_eq_ok.1 hf
    obtain rfl := Except.ok.inj hraw
    obtain ⟨ihl, tl, len, hip, hpay, hudp, hmin, hmax, hph⟩ := hframe
    have hcompare (expected : Half) : OnlyFaults (s.udpCompare expected) _ :=
      State.udpCompare_onlyFaults (h.holds hip.frameLen) hip.ihl hpay hudp hmin hmax hph
    rcases decode_udpCsum_eq_instr hd with rfl | rfl | rfl
    · exact absurd hx (execUdpCsumNone_ne_fault hip.ihl hudp)
    · exact (hcompare _).of_settle hx
    · exact (hcompare _).of_settle hx

/-- An engine step of a PROC meets no fault but an unwritten byte of the frame (20_memory R85). -/
theorem State.Inv.engineStep_fault_of_proc (hop : s.lat.op = 0x1) (he : s.engineStep = .fault e) :
    UnwrittenInFrame s.lat.frameLen.toNat e := by
  obtain ⟨f, hp, hf | ⟨raw, i, hf, hd, hx⟩⟩ := State.engineStep_fault he
  · exact h.fetch_fault hp e hf
  · by_cases hc : f = .c
    · subst hc
      obtain rfl := Except.ok.inj hf
      rw [hop] at hd
      obtain rfl : Instr.proc = i := Decoded.instr.inj hd
      exact execProc_fault (Params.wf_bounds h.params).2 hx
    · exact h.exec_fault_of_wire hp hc hf hd hx

/-- An engine step of a checksum command meets no fault but an unwritten byte. -/
theorem State.Inv.engineStep_fault_of_csum (hop : s.lat.op ≠ 0x1) (he : s.engineStep = .fault e) :
    Unwritten e := by
  obtain ⟨f, hp, hfault⟩ := State.engineStep_fault he
  have hlatch := h.latch
  simp only [State.latchOk, hp] at hlatch
  cases f with
  | c =>
    rcases hfault with hf | ⟨raw, i, hf, hd, hx⟩
    · cases hf
    · obtain rfl := Except.ok.inj hf
      rcases decode_c_eq_instr hd with ⟨hw, -⟩ | rfl | rfl
      · exact absurd (show s.lat.op = 0x1 by bv_omega) hop
      · exact execCsum_fault hx
      · exact execCsum2_fault hx
  | ethClass => exact absurd hlatch hop
  | ipProto => exact absurd hlatch hop
  | icmpType => exact absurd hlatch hop
  | udpCsum => exact absurd hlatch hop

theorem State.Inv.engineStep_fault (he : s.engineStep = .fault e) : Unwritten e := by
  by_cases hop : s.lat.op = 0x1
  · exact (h.engineStep_fault_of_proc hop he).unwritten
  · exact h.engineStep_fault_of_csum hop he

/-! ### The outside world under the invariant -/

omit h in
theorem State.memRead_fault {b : Buf} {o n : Nat} (hin : o + n ≤ s.size b) (he : s.memRead b o n = .error e) :
    Unwritten e :=
  State.RangeFaults.memRead (.unwritten hin) e he

omit h in
/-- A window that an address reaches holds the whole access (20_memory R80). -/
theorem State.hostLoad_fault {addr : Nat} {w : Width} (he : s.hostLoad addr w = .fault e) : Unwritten e := by
  unfold State.hostLoad at he
  split at he
  · cases he
  · cases he
  · next b off hr =>
    split at he
    · cases he
    · split at he
      · next hread =>
        obtain rfl := Host.Outcome.fault.inj he
        exact State.memRead_fault (State.resolve_window hr).2 hread
      · cases he

/-- A pending transmit lies inside RX (10_state R50). -/
theorem State.Inv.adapterTake_fault (he : s.adapterTake = .fault e) : Unwritten e := by
  unfold State.adapterTake at he
  split at he
  · cases he
  · next len hp =>
    have hin : 0 + len.toNat ≤ s.size .rx := by simpa [State.size] using (h.ports.1 len hp).2
    split at he
    · cases he
    · split at he
      · next hread =>
        obtain rfl := Host.Outcome.fault.inj he
        exact State.memRead_fault hin hread
      · cases he

/-- A pending datagram lies inside RX (10_state R51). -/
theorem State.Inv.udpTake_fault (he : s.udpTake = .fault e) : Unwritten e := by
  unfold State.udpTake at he
  split at he
  · cases he
  · next off len hp =>
    have hin : off.toNat + len.toNat ≤ s.size .rx := (h.ports.2 off len hp).2.2
    split at he
    · cases he
    · split at he
      · next hread =>
        obtain rfl := Host.Outcome.fault.inj he
        exact State.memRead_fault hin hread
      · cases he

omit h in
/-- A platform write never faults. -/
theorem State.hostStore_ne_fault (addr : Nat) (w : Width) (v : Word) : s.hostStore addr w v ≠ .fault e := by
  unfold State.hostStore
  split
  · simp
  · exact s.writeReg_ne_fault _ v e
  · exact s.hostWriteBytes_ne_fault _ _ _ e

/-- Of the acts of the outside world only a window read and the two takes can fault. -/
theorem State.Inv.act_fault {op : EnvOp} (he : s.act op = .fault e) : Unwritten e := by
  cases op with
  | wr r v => exact absurd he (s.writeReg_ne_fault r v e)
  | rd r => cases he
  | wb b off bs => exact absurd he (s.hostWriteBytes_ne_fault b off bs e)
  | poll => cases he
  | store addr w v => exact absurd he (State.hostStore_ne_fault addr w v)
  | load addr w => exact State.hostLoad_fault he
  | adapterTake => exact h.adapterTake_fault he
  | udpTake => exact h.udpTake_fault he
  | reset => cases he
  | wait => cases he

theorem State.Inv.step_fault (he : step s = .fault e) : Unwritten e := by
  rcases step_cases s with ⟨-, hs⟩ | ⟨op, rest, -, ⟨-, -, hs⟩ | ⟨-, hs⟩ | ⟨-, -, hs⟩⟩ <;> rw [hs] at he
  · exact h.engineStep_fault he
  · exact h.engineStep_fault he
  · exact (h.withEnv { s.env with script := rest }).engineStep_fault he
  · exact (h.withEnv { s.env with script := rest }).act_fault he

end

/-- Settles O44: every fault of a step is an unwritten byte, and a PROC's one of the frame. -/
theorem noAccessOutsideBuffers : Obligations.NoAccessOutsideBuffers := by
  unfold Obligations.NoAccessOutsideBuffers
  refine ⟨fun s b o h hstep => ?_, fun s b o h hop _ he => ?_⟩
  · obtain ⟨b', o', heq⟩ := h.step_fault hstep
    cases heq
  · obtain ⟨o', heq, ho⟩ := h.engineStep_fault_of_proc hop he
    obtain ⟨rfl, rfl⟩ := Fault.unwrittenByte.inj heq
    exact ⟨rfl, ho⟩

end Sys2Proof.Machine
end

section
/-! PROOF. The encodings: which code words decode to which instruction, which command words are illegal, and that
a step reads, decodes and runs one code word. -/

namespace Sys2Proof.Machine

/-! ### Decoding and encoding -/

theorem decode_encode {i : Instr} (h : i.wf = true) : decode (encode i) = .instr i := by
  cases i with
  | udpCsum s =>
    obtain ⟨h0, h1⟩ : s ≠ 0x0000 ∧ s ≠ 0xFFFF := by simpa [Instr.wf] using h
    exact (if_neg h0).trans (if_neg h1)
  | _ => rfl

/-- An instruction's code word is of the encoding of its row (opcode_table.json "format"). -/
theorem encode_format (i : Instr) : (encode i).format = i.format :=
  match i with
  | .proc => Laws.EncodeFormat.proc
  | .csum => Laws.EncodeFormat.csum
  | .csum2 => Laws.EncodeFormat.csum2
  | .arpReq => Laws.EncodeFormat.arpReq
  | .ipv4Unicast => Laws.EncodeFormat.ipv4Unicast
  | .icmp => Laws.EncodeFormat.icmp
  | .icmpEchoReq => Laws.EncodeFormat.icmpEchoReq
  | .udp => Laws.EncodeFormat.udp
  | .udpCsumNone => Laws.EncodeFormat.udpCsumNone
  | .udpCsumFfff => Laws.EncodeFormat.udpCsumFfff
  | .udpCsum s => Laws.EncodeFormat.udpCsum s

/-- A code word decodes to the well-formed instruction that encodes to it, and to no other (30_encoding R101,
R106, R113-R115). -/
theorem decode_eq_instr_iff {r : Raw} {i : Instr} : decode r = .instr i ↔ i.wf = true ∧ encode i = r := by
  refine ⟨fun h => ?_, fun ⟨hwf, he⟩ => he ▸ decode_encode hwf⟩
  cases r with
  | c w =>
    simp only [decode, decodeCommand] at h
    split_ifs at h <;> subst w <;> cases h <;> exact ⟨rfl, rfl⟩
  | ethClass w =>
    simp only [decode, decodeEtherType] at h
    split_ifs at h <;> subst w <;> cases h <;> exact ⟨rfl, rfl⟩
  | ipProto b =>
    simp only [decode, decodeIpProto] at h
    split_ifs at h <;> subst b <;> cases h <;> exact ⟨rfl, rfl⟩
  | icmpType b =>
    simp only [decode, decodeIcmpType] at h
    split_ifs at h
    subst b; cases h; exact ⟨rfl, rfl⟩
  | udpCsum s =>
    simp only [decode, decodeUdpCsum] at h
    split_ifs at h with h1 h2 <;> cases h
    · exact ⟨rfl, congrArg Raw.udpCsum h1.symm⟩
    · exact ⟨rfl, congrArg Raw.udpCsum h2.symm⟩
    · exact ⟨by simpa [Instr.wf] using ⟨h1, h2⟩, rfl⟩

/-- Settles O2: all three clauses are readings of `decode_eq_instr_iff`. -/
theorem decodeEncodeAgree : Obligations.DecodeEncodeAgree := by
  unfold Obligations.DecodeEncodeAgree
  refine ⟨fun i hi => decode_encode hi, fun r i h => ?_, fun i j hi hj he => ?_⟩
  · obtain ⟨hwf, rfl⟩ := decode_eq_instr_iff.1 h
    exact ⟨hwf, rfl, (encode_format i).symm⟩
  · exact Decoded.instr.inj ((decode_encode hi).symm.trans (decode_eq_instr_iff.2 ⟨hj, he.symm⟩))

/-- Settles O1, one row of the table at a time. -/
theorem tableWordsDecode : Obligations.TableWordsDecode := by
  unfold Obligations.TableWordsDecode
  exact ⟨rfl, rfl, rfl, rfl, rfl, rfl, rfl, rfl, rfl, rfl, rfl⟩

/-! ### Illegal command words -/

theorem decode_c_illegal_iff {w : Word} :
    decode (.c w) = .reject .illegalCommand ↔ ¬(w = 0x1 ∨ w = 0x2 ∨ w = 0x3) := by
  simp only [decode, decodeCommand]
  split_ifs <;> simp_all

/-- A command word is its RSV field above its OP field (30_encoding R100). -/
theorem command_toNat (w : Word) : w.toNat = 16 * (w.extractLsb' 4 28).toNat + (w.setWidth 4).toNat := by
  simp only [BitVec.extractLsb'_toNat, BitVec.toNat_setWidth, Nat.shiftRight_eq_div_pow]
  omega

theorem command_eq_iff (w : Word) (op : BitVec 4) :
    w = op.setWidth 32 ↔ w.extractLsb' 4 28 = 0 ∧ w.setWidth 4 = op := by
  have hop : (op.setWidth 32).toNat = op.toNat := BitVec.toNat_setWidth_of_le (by decide)
  simp only [← BitVec.toNat_inj, hop, command_toNat w, BitVec.ofNat_eq_ofNat, BitVec.toNat_ofNat, Nat.zero_mod]
  omega

/-- A legal word has RSV 0 and OP 1, 2 or 3 (30_encoding R102). -/
theorem legal_command_iff (w : Word) :
    (w = 0x1 ∨ w = 0x2 ∨ w = 0x3) ↔ w.extractLsb' 4 28 = 0 ∧ w.setWidth 4 ∈ [(0x1 : BitVec 4), 0x2, 0x3] := by
  have h1 := command_eq_iff w 0x1
  have h2 := command_eq_iff w 0x2
  have h3 := command_eq_iff w 0x3
  simp only [List.mem_cons, List.not_mem_nil, or_false, and_or_left]
  exact or_congr h1 (or_congr h2 h3)

/-- A byte read depends on the parameters and the two buffers only (20_memory R93). -/
theorem State.sameBytes_of_buffers {s t : State} (hcfg : t.cfg = s.cfg) (hrx : t.rx = s.rx) (htx : t.tx = s.tx) :
    s.SameBytes t :=
  fun b => State.readByte_congr hcfg (by cases b <;> assumption)

/-- Settles O3: the illegal words by the two fields of a word, the step by the last case of a CMD write. -/
theorem illegalCommandWords : Obligations.IllegalCommandWords := by
  unfold Obligations.IllegalCommandWords
  refine fun w => ⟨?_, fun s rest hidle hs hd => ?_⟩
  · rw [decode_c_illegal_iff, legal_command_iff]
    tauto
  · have hstep : step s = .next ((s.withScript rest).cmdWrite w) := step_of_namesWrite hs (.inl rfl)
    rcases (s.withScript rest).cmdWrite_cases w with ⟨hbusy, -⟩ | ⟨-, hlegal, -⟩ | ⟨-, -, he⟩
    · simp [hidle] at hbusy
    · exact absurd hlegal (decode_c_illegal_iff.1 hd)
    · exact ⟨_, hstep.trans (congrArg _ he), rfl, rfl, rfl, rfl, rfl, rfl, rfl, rfl,
        State.sameBytes_of_buffers rfl rfl rfl, rfl, rfl⟩

/-! ### One step of the machine -/

@[simp] theorem State.withScript_fetch (s : State) (ops : List EnvOp) (f : Format) :
    (s.withScript ops).fetch f = s.fetch f := by cases f <;> rfl

theorem State.engineStep_of_idle {s : State} (hp : s.phase = .idle) : s.engineStep = .next s := by
  simp [State.engineStep, hp]

theorem State.engineStep_of_instr {s : State} {f : Format} {raw : Raw} {i : Instr} (hp : s.phase = .busy f)
    (hf : s.fetch f = .ok raw) (hd : decode raw = .instr i) : s.engineStep = exec i s := by
  simp [State.engineStep, hp, hf, hd]

theorem State.engineStep_of_reject {s : State} {f : Format} {raw : Raw} {r : Reject} (hp : s.phase = .busy f)
    (hf : s.fetch f = .ok raw) (hd : decode raw = .reject r) :
    s.engineStep = .next (s.finish (rejectOutcome r)) := by
  simp [State.engineStep, hp, hf, hd, State.drop]

theorem step_of_script_nil {s : State} (hs : s.env.script = []) : step s = s.engineStep := by
  simp [step, State.advance, hs]

theorem step_poll_busy {s : State} {rest : List EnvOp} (hs : s.env.script = .poll :: rest)
    (hbusy : s.phase.isBusy = true) : step s = s.engineStep := by
  simp [step, State.advance, hs, hbusy]

theorem step_wait {s : State} {rest : List EnvOp} (hs : s.env.script = .wait :: rest) :
    step s = (s.withScript rest).engineStep := by
  simp [step, State.advance, hs]

/-- Settles O39. -/
theorem pollWaitsForIdle : Obligations.PollWaitsForIdle := by
  unfold Obligations.PollWaitsForIdle
  exact fun s rest hs => ⟨step_poll_busy hs, step_poll_idle hs⟩

/-- Settles O41: each script that lets the engine move, then what the engine does with the word it reads. -/
theorem stepRunsDecodedInstruction : Obligations.StepRunsDecodedInstruction := by
  unfold Obligations.StepRunsDecodedInstruction
  refine fun s f raw rest hp hf => ⟨fun i hd hs => ?_, fun i hd hs => ?_, fun r hd hs => ?_, fun u hu hs => ?_⟩
  · have hstep : step s = s.engineStep := hs.elim step_of_script_nil fun h => step_poll_busy h (by simp [hp])
    exact hstep.trans (State.engineStep_of_instr hp hf hd)
  · exact (step_wait hs).trans (State.engineStep_of_instr hp ((s.withScript_fetch rest f).trans hf) hd)
  · exact (step_of_script_nil hs).trans (State.engineStep_of_reject hp hf hd)
  · exact (step_of_script_nil hs).trans (State.engineStep_of_idle hu)

end Sys2Proof.Machine
end

section
/-! PROOF. Which class of outcome each instruction ends with, and the one event, or none, that it has emitted
(30_encoding R120). -/

namespace Sys2Proof.Machine

/-! ### The outcome codes -/

/-- Every outcome, in the order of 30_encoding R119. -/
def OutcomeCode.all : List OutcomeCode :=
  [.none, .csumOk, .errCmd, .errRange, .dropFrameLen, .dropEthertype, .dropNotOurs, .dropClass, .arpReplyTx,
    .dropArpLen, .dropArpHtype, .dropArpPtype, .dropArpOper, .dropArpNoIp, .dropArpTarget, .dropIpLen,
    .dropIpFrag, .dropIpIhl, .dropIpCsum, .dropIpProto, .icmpReplyTx, .dropIcmpLen, .dropIcmpType,
    .dropIcmpCsum, .udpHandoff, .dropUdpLen, .dropUdpCsum]

/-- The first outcome with the code `b`. -/
def OutcomeCode.ofCode? (b : Byte) : Option OutcomeCode := OutcomeCode.all.find? (fun o => o.code == b)

theorem OutcomeCode.ofCode?_code (o : OutcomeCode) : OutcomeCode.ofCode? o.code = some o := by cases o <;> rfl

theorem OutcomeCode.code_injective {o o' : OutcomeCode} (h : o.code = o'.code) : o = o' := by
  simpa only [OutcomeCode.ofCode?_code, Option.some.injEq] using congrArg OutcomeCode.ofCode? h

/-! ### Frames that are dropped -/

/-- The command has ended with a code of the drop class, after no write but a checksum computation's to ACC
(41_dispatch R172). -/
def State.DropsFrame (s t : State) : Prop :=
  ∃ code, code.classOf = .drop ∧ (t = s.finish code ∨ t = s.accRelease.finish code)

/-- An answer that drops the frame, whatever else its stage could do. -/
theorem Answers.dropsFrame {s : State} {code : OutcomeCode} {Q : State → Prop} (h : code.classOf = .drop) :
    Answers (.ok (s.drop code)) (fun t => s.DropsFrame t ∨ Q t) :=
  .ok (.inl ⟨code, h, .inl rfl⟩)

theorem Answers.dropsFrameAfterSum {s : State} {code : OutcomeCode} {Q : State → Prop} (h : code.classOf = .drop) :
    Answers (.ok (s.accRelease.drop code)) (fun t => s.DropsFrame t ∨ Q t) :=
  .ok (.inl ⟨code, h, .inr rfl⟩)

section
variable {s t : State}

/-- 41_dispatch R174-R176. -/
theorem execProc_dropsFrame (h : execProc s = .next t) : s.DropsFrame t ∨ t = s.enter .ethClass := by
  apply Answers.next (t := t) ?_ h
  refine .ite (fun _ => .dropsFrame rfl) fun _ => .bind fun et _ => ?_
  refine .ite (fun _ => .dropsFrame rfl) fun _ => .bind fun dst _ => ?_
  refine .ite (fun _ => ?_) fun _ => .ite (fun _ => ?_) fun _ => .dropsFrame rfl
  · exact .ite (fun _ => .ok (.inr rfl)) fun _ => .dropsFrame rfl
  · exact .ite (fun _ => .ok (.inr rfl)) fun _ => .dropsFrame rfl

/-- 42_arp R191-R198. -/
theorem execArpReq_dropsFrame (h : execArpReq s = .next t) :
    s.DropsFrame t ∨ ∃ u, s.arpBuildReply = .ok u ∧ t = (u.emitTransmit 42).finish .arpReplyTx := by
  apply Answers.next (t := t) ?_ h
  refine .ite (fun _ => .dropsFrame rfl) fun _ => .bind fun htype _ => ?_
  refine .ite (fun _ => .dropsFrame rfl) fun _ => .bind fun ptype _ => ?_
  refine .ite (fun _ => .dropsFrame rfl) fun _ => .bind fun oper _ => ?_
  refine .ite (fun _ => .dropsFrame rfl) fun _ => .ite (fun _ => .dropsFrame rfl) fun _ => .bind fun tpa _ => ?_
  exact .ite (fun _ => .dropsFrame rfl) fun _ => .bind fun u hu => .ok (.inr ⟨u, hu, rfl⟩)

/-- 43_ipv4 R211-R215. -/
theorem execIpv4Unicast_dropsFrame (h : execIpv4Unicast s = .next t) :
    s.DropsFrame t ∨ t = s.accRelease.enter .ipProto := by
  apply Answers.next (t := t) ?_ h
  refine .ite (fun _ => .dropsFrame rfl) fun _ => .bind fun ff _ => ?_
  refine .ite (fun _ => .dropsFrame rfl) fun _ => .bind fun ihl _ => ?_
  refine .ite (fun _ => .dropsFrame rfl) fun _ => .bind fun v hv => ?_
  obtain ⟨saved, ws, -, -, rfl⟩ := State.verify_eq_ok.1 hv
  refine .ite (fun _ => .dropsFrameAfterSum rfl) fun _ => .bind fun proto _ => ?_
  exact .ite (fun _ => .ok (.inr rfl)) fun _ => .dropsFrameAfterSum rfl

/-- 44_icmp R231, R232. -/
theorem execIcmp_dropsFrame (h : execIcmp s = .next t) : s.DropsFrame t ∨ t = s.enter .icmpType := by
  apply Answers.next (t := t) ?_ h
  refine .bind fun ihl _ => .bind fun tl _ => .ite (fun _ => .dropsFrame rfl) fun _ => .bind fun ty _ => ?_
  exact .ite (fun _ => .dropsFrame rfl) fun _ => .ok (.inr rfl)

/-- 45_udp R251, R252. -/
theorem execUdp_dropsFrame (h : execUdp s = .next t) :
    s.DropsFrame t ∨ ∃ p len u, s.buildPseudoHeader p len = .ok u ∧ t = u.enter .udpCsum := by
  apply Answers.next (t := t) ?_ h
  refine .bind fun ihl _ => .bind fun tl _ => .ite (fun _ => .dropsFrame rfl) fun _ => .bind fun len _ => ?_
  exact .ite (fun _ => .dropsFrame rfl) fun _ => .bind fun u hu => .ok (.inr ⟨_, len, u, hu, rfl⟩)

end

/-! ### What each instruction has emitted -/

/-- A command goes on, or ends with a code whose class says what it has emitted and written (30_encoding R120). -/
inductive State.EndsByClass (s t : State) : Prop
  | goesOn (f : Format) (phase : t.phase = .busy f) (ports : t.ports = s.ports)
  | stops (code : OutcomeCode) (hclass : code.classOf = .drop ∨ code.classOf = .commandError)
      (dropped : s.Dropped t code)
  | sums (ended : s.Ended t .csumOk) (ports : t.ports = s.ports) (bytes : s.SameBytes t)
  | replies (code : OutcomeCode) (len : Half) (hclass : code.classOf = .reply)
      (transmitted : s.Transmitted t code len)
  | handsOff (off len : Half) (handedOff : s.HandedOff t off len)

section
variable {s t u : State}

/-- A finish with no write but a checksum computation's to ACC. -/
theorem State.dropped_of_finish {code : OutcomeCode} (h : t = s.finish code ∨ t = s.accRelease.finish code) :
    s.Dropped t code := by
  rcases h with rfl | rfl <;>
    exact ⟨⟨rfl, rfl, rfl, rfl, rfl⟩, rfl, rfl, State.sameBytes_of_buffers rfl rfl rfl, rfl, rfl⟩

theorem State.DropsFrame.endsByClass (h : s.DropsFrame t) : s.EndsByClass t := by
  obtain ⟨code, hclass, ht⟩ := h
  exact .stops code (.inl hclass) (State.dropped_of_finish ht)

theorem State.EndsByClass.enter (f : Format) (h : s.WroteBuffers u) : s.EndsByClass (u.enter f) :=
  .goesOn f rfl h.ports

theorem State.EndsByClass.errRange : s.EndsByClass (s.finish .errRange) :=
  .stops _ (.inr rfl) (State.dropped_of_finish (.inl rfl))

theorem State.EndsByClass.setResult (r : Half) : s.EndsByClass ((s.accRelease.setResult r).finish .csumOk) :=
  .sums ⟨rfl, rfl, rfl, rfl, rfl⟩ rfl (State.sameBytes_of_buffers rfl rfl rfl)

theorem State.EndsByClass.finishCsum (ws : List Half) : s.EndsByClass (s.finishCsum ws) := by
  rw [State.finishCsum_eq]
  exact .setResult _

theorem State.EndsByClass.transmit {code : OutcomeCode} {len : Half} (hclass : code.classOf = .reply)
    (h : s.WroteBuffers u) : s.EndsByClass ((u.emitTransmit len).finish code) :=
  .replies code len hclass ⟨⟨rfl, rfl, rfl, by simp [h.status], by simp [h.status]⟩, by simp [h.regs],
    by simp [h.ports], h.cfg, h.env⟩

theorem State.EndsByClass.handOff (p : Nat) (len : Half) (h : u = s ∨ u = s.accRelease) :
    s.EndsByClass (u.handOff p len) := by
  rcases h with rfl | rfl <;>
    exact .handsOff _ len ⟨⟨rfl, rfl, rfl, rfl, rfl⟩, rfl, rfl, State.sameBytes_of_buffers rfl rfl rfl, rfl, rfl⟩

theorem State.udpCompare_endsByClass {e : Half} (h : s.udpCompare e = .ok t) : s.EndsByClass t := by
  obtain ⟨ihl, len, ws, -, -, -, ⟨-, rfl⟩ | ⟨-, rfl⟩⟩ := State.udpCompare_eq_ok h
  · exact .stops _ (.inl rfl) (State.dropped_of_finish (.inr rfl))
  · exact .handOff _ len (.inr rfl)

theorem exec_endsByClass {i : Instr} (h : exec i s = .next t) : s.EndsByClass t := by
  cases i with
  | proc =>
    rcases execProc_dropsFrame h with hd | rfl
    · exact hd.endsByClass
    · exact .enter _ (.refl s)
  | csum =>
    rcases execCsum_next h with rfl | ⟨ws, -, rfl⟩
    · exact .errRange
    · exact .finishCsum ws
  | csum2 =>
    rcases execCsum2_next h with rfl | ⟨wa, wb, -, -, rfl⟩
    · exact .errRange
    · exact .finishCsum (wa ++ wb)
  | arpReq =>
    rcases execArpReq_dropsFrame h with hd | ⟨u, hu, rfl⟩
    · exact hd.endsByClass
    · exact .transmit rfl (.arpBuildReply hu)
  | ipv4Unicast =>
    rcases execIpv4Unicast_dropsFrame h with hd | rfl
    · exact hd.endsByClass
    · exact .enter _ (.accRelease s)
  | icmp =>
    rcases execIcmp_dropsFrame h with hd | rfl
    · exact hd.endsByClass
    · exact .enter _ (.refl s)
  | icmpEchoReq =>
    rcases execIcmpEchoReq_next h with rfl | ⟨ihl, tl, u, -, -, hu, rfl⟩
    · exact .stops _ (.inl rfl) (State.dropped_of_finish (.inr rfl))
    · exact .transmit rfl ((State.WroteBuffers.accRelease s).trans (.icmpBuildReply hu))
  | udp =>
    rcases execUdp_dropsFrame h with hd | ⟨p, len, u, hu, rfl⟩
    · exact hd.endsByClass
    · exact .enter _ (.buildPseudoHeader hu)
  | udpCsumNone =>
    obtain ⟨ihl, len, -, -, rfl⟩ := execUdpCsumNone_next h
    exact .handOff _ len (.inl rfl)
  | udpCsumFfff => exact State.udpCompare_endsByClass (settle_eq_next.1 h)
  | udpCsum stored => exact State.udpCompare_endsByClass (settle_eq_next.1 h)

end

/-- Settles O48: the codes outcome by outcome, the events by the way the instruction ends its command. -/
theorem outcomeClassTellsEvents : Obligations.OutcomeClassTellsEvents := by
  unfold Obligations.OutcomeClassTellsEvents
  refine ⟨fun o => ?_, fun _ _ => OutcomeCode.code_injective, fun i s t h => ?_⟩
  · cases o <;> simp [OutcomeCode.classOf, OutcomeCode.code]
  · cases exec_endsByClass h with
    | goesOn f phase ports => exact ⟨fun _ => ports, fun hidle => by simp [phase] at hidle⟩
    | stops code hclass dropped =>
      refine ⟨fun _ => dropped.ports, fun _ => ?_⟩
      have hends : t.ports = s.ports ∧ t.regs = s.regs ∧ ∀ o, t.readByte .rx o = s.readByte .rx o :=
        ⟨dropped.ports, dropped.regs, dropped.bytes .rx⟩
      rw [dropped.ended.outcome]
      rcases hclass with hclass | hclass <;> rw [hclass] <;> exact hends
    | sums ended ports bytes =>
      refine ⟨fun _ => ports, fun _ => ?_⟩
      rw [ended.outcome]
      exact ⟨ports, bytes .rx⟩
    | replies code len hclass transmitted =>
      refine ⟨fun hbusy => by simp [transmitted.ended.phase] at hbusy, fun _ => ?_⟩
      rw [transmitted.ended.outcome, hclass]
      exact ⟨len, by rw [transmitted.ports], by rw [transmitted.regs]⟩
    | handsOff off len handedOff =>
      refine ⟨fun hbusy => by simp [handedOff.ended.phase] at hbusy, fun _ => ?_⟩
      rw [handedOff.ended.outcome]
      show t.ports.events = _
      rw [handedOff.ports, handedOff.regs]

end Sys2Proof.Machine
end

section
/-! PROOF. The folded sum of a word list in closed form and its laws (40_checksum R143-R146), and when a stored
checksum verifies (R153). -/

namespace Sys2Proof.Machine

/-! ### The folded sum by the structure of its list -/

theorem foldl_ocadd (ws : List Half) (a : Half) : ws.foldl ocadd a = ocadd a (ocsum ws) := by
  have : Std.Associative ocadd := ⟨ocadd_assoc⟩
  rw [ocsum, ← List.foldl_assoc (op := ocadd), ocadd_comm a, ocadd_zero_left]

@[simp] theorem ocsum_cons (w : Half) (ws : List Half) : ocsum (w :: ws) = ocadd w (ocsum ws) := by
  rw [ocsum, List.foldl_cons, foldl_ocadd, ocadd_zero_left]

/-- The one's-complement sum of two lists' sums is the sum of the joined list (40_checksum R146 (b)). -/
theorem ocsum_append (ws vs : List Half) : ocsum (ws ++ vs) = ocadd (ocsum ws) (ocsum vs) := by
  rw [ocsum, List.foldl_append, foldl_ocadd]
  rfl

/-- The folded sum is a sum of the words in any order (40_checksum R146 (a)). -/
theorem ocsum_perm {ws vs : List Half} (h : ws.Perm vs) : ocsum ws = ocsum vs :=
  h.foldl_eq' (fun x _ y _ z => by rw [ocadd_assoc, ocadd_comm x, ← ocadd_assoc]) 0x0000

/-- A zero word at the end, the padding of an odd byte 0x00 for one, adds nothing (40_checksum R146 (c)). -/
theorem ocsum_append_zero (ws : List Half) : ocsum (ws ++ [0x0000]) = ocsum ws := by
  rw [ocsum_perm List.perm_append_comm, List.singleton_append, ocsum_cons, ocadd_zero_left]

/-! ### The closed form -/

/-- The folded sum is the exact sum, reduced to the representatives 1..0xFFFF of its class modulo 0xFFFF unless it
is 0 (40_checksum R143). -/
theorem ocsum_toNat (ws : List Half) :
    (ocsum ws).toNat =
      if (ws.map BitVec.toNat).sum = 0 then 0 else ((ws.map BitVec.toNat).sum - 1) % 0xFFFF + 1 := by
  induction ws with
  | nil => rfl
  | cons w ws ih =>
    have hw := w.isLt
    rw [ocsum_cons, ocadd_toNat, ih, List.map_cons, List.sum_cons]
    generalize (ws.map BitVec.toNat).sum = total
    split_ifs <;> omega

theorem sum_toNat_eq_zero_iff {ws : List Half} : (ws.map BitVec.toNat).sum = 0 ↔ ∀ w ∈ ws, w = 0x0000 := by
  rw [List.sum_eq_zero_iff]
  simp [BitVec.toNat_eq]

theorem ocsum_eq_zero_iff {ws : List Half} : ocsum ws = 0x0000 ↔ ∀ w ∈ ws, w = 0x0000 := by
  rw [← sum_toNat_eq_zero_iff, ← BitVec.toNat_inj, ocsum_toNat]
  split <;> simp [*]

theorem sum_toNat_le (ws : List Half) : (ws.map BitVec.toNat).sum ≤ ws.length * 0xFFFF := by
  rw [← List.length_map (f := BitVec.toNat), ← smul_eq_mul]
  refine List.sum_le_card_nsmul _ _ fun x hx => ?_
  obtain ⟨w, -, rfl⟩ := List.mem_map.1 hx
  exact Nat.le_of_lt_succ w.isLt

/-- Two folds take every 32-bit sum to the representative of its class modulo 0xFFFF (40_checksum R143). -/
theorem fold_fold_eq {total : Nat} (h : total < 2 ^ 32) :
    (total / 65536 + total % 65536) / 65536 + (total / 65536 + total % 65536) % 65536 =
      if total = 0 then 0 else (total - 1) % 0xFFFF + 1 := by
  split <;> omega

/-- Settles O4: the run of ACC is `State.accSum_eq`, its value the closed form `ocsum_toNat`. -/
theorem accumulatorClosedForm : Obligations.AccumulatorClosedForm := by
  unfold Obligations.AccumulatorClosedForm
  intro s ws total fold
  refine ⟨by rw [State.accSum_eq], ocsum_toNat ws, ocsum_eq_zero_iff, fun hlen => ?_⟩
  have htotal : total < 2 ^ 32 := by
    have := sum_toNat_le ws
    omega
  exact ⟨htotal, (fold_fold_eq htotal).trans (ocsum_toNat ws).symm⟩

/-- Settles O6: order and zero words by `ocsum_perm`, the odd byte 0x00 as a last word of zero. -/
theorem foldedSumLaws : Obligations.FoldedSumLaws := by
  unfold Obligations.FoldedSumLaws
  refine ⟨fun _ _ => ocsum_perm, ocsum_append, ocsum_append_zero, fun s b o n ws hws hpad => ?_,
    fun p x m y q _ => ocsum_perm (List.perm_iff_count.2 fun w => ?_)⟩
  · obtain ⟨whole, hwhole, hws⟩ := bind_eq_ok.1 hws
    obtain rfl : whole = ws := by simpa [State.oddWord] using hws
    exact ⟨whole ++ [0x0000], by simp [State.words, State.oddWord, hwhole, hpad], ocsum_append_zero whole⟩
  · simp only [List.count_append]
    omega

/-! ### The Internet checksum -/

theorem inet_toNat (ws : List Half) : (inet ws).toNat = 0xFFFF - (ocsum ws).toNat := by
  rw [inet, BitVec.toNat_sub_of_le (Nat.le_of_lt_succ (ocsum ws).isLt)]
  rfl

theorem inet_eq_not (ws : List Half) : inet ws = ~~~(ocsum ws) := by
  apply BitVec.eq_of_toNat_eq
  rw [inet_toNat, BitVec.toNat_not]

/-- The complement is all ones exactly for a sum of zero (40_checksum R144). -/
theorem inet_eq_ffff_iff {ws : List Half} : inet ws = 0xFFFF ↔ ∀ w ∈ ws, w = 0x0000 := by
  rw [inet_eq_not, BitVec.not_eq_comm, show ~~~(0xFFFF : Half) = 0x0000 from rfl, ocsum_eq_zero_iff]

theorem inet_eq_zero_iff {ws : List Half} : inet ws = 0x0000 ↔ ocsum ws = 0xFFFF := by
  rw [inet_eq_not, BitVec.not_eq_comm, show ~~~(0x0000 : Half) = 0xFFFF from rfl]

/-- Settles O5. -/
theorem internetChecksumExtremes : Obligations.InternetChecksumExtremes :=
  fun ws => ⟨inet_toNat ws, inet_eq_not ws, inet_eq_ffff_iff, inet_eq_zero_iff⟩

/-! ### A received message -/

/-- A stored value other than 0xFFFF is the checksum exactly when it makes up the sum to 0xFFFF; the stored 0xFFFF
would do so as well, but is the checksum of zeros only (40_checksum R153). -/
theorem inet_eq_iff_of_ne_zero {ws : List Half} (hws : ocsum ws ≠ 0x0000) (saved : Half) :
    inet ws = saved ↔ saved ≠ 0xFFFF ∧ ocadd (ocsum ws) saved = 0xFFFF := by
  have hsum := (ocsum ws).isLt
  have hsaved := saved.isLt
  rw [ne_eq, ← BitVec.toNat_inj] at hws
  rw [ne_eq, ← BitVec.toNat_inj, ← BitVec.toNat_inj, ← BitVec.toNat_inj, inet_toNat, ocadd_toNat]
  simp only [BitVec.ofNat_eq_ofNat, BitVec.toNat_ofNat] at hws ⊢
  split <;> omega

/-- Settles O8: `State.verify_eq_ok` says what verify compares, `inet_eq_iff_of_ne_zero` when it passes. -/
theorem receivedMessageLaw : Obligations.ReceivedMessageLaw := by
  unfold Obligations.ReceivedMessageLaw
  intro s b o n odd f ws saved hws hsaved
  refine ⟨_, _, State.verify_eq_ok.2 ⟨saved, ws, hsaved, hws, rfl⟩, fun hzero => ?_, fun hzero => ?_,
    State.sameBytes_of_buffers rfl rfl rfl, rfl, rfl, rfl⟩
  · rw [decide_eq_true_iff, inet_eq_ffff_iff.2 hzero, eq_comm]
  · rw [decide_eq_true_iff, inet_eq_iff_of_ne_zero (mt ocsum_eq_zero_iff.1 hzero)]

end Sys2Proof.Machine
end

section
/-! PROOF. The words of a region as the pairs of its bytes, generate and verify over a region, and the two checksum
commands (40_checksum R142, R147-R152). -/

namespace Sys2Proof.Machine

/-! ### The words of a region -/

@[simp] theorem State.words_zero_even (s : State) (b : Buf) (o : Nat) : s.words b o 0 false = .ok [] := rfl

@[simp] theorem State.words_zero_odd (s : State) (b : Buf) (o : Nat) :
    s.words b o 0 true = s.readByte b o >>= fun v => .ok [v ++ 0x00#8] := by
  cases h : s.readByte b o <;> simp [State.words, State.wholeWords, State.oddWord, h]

/-- A region's first word is its first two bytes, the rest of it the region from the third byte on. -/
theorem State.words_succ (s : State) (b : Buf) (o n : Nat) (odd : Bool) :
    s.words b o (n + 1) odd = s.be16 b o >>= fun w => s.words b (o + 2) n odd >>= fun ws => .ok (w :: ws) := by
  simp only [State.words, State.wholeWords, show o + 2 * (n + 1) = o + 2 + 2 * n by omega]
  cases s.be16 b o with
  | error e => rfl
  | ok w =>
    cases s.wholeWords b (o + 2) n with
    | error e => rfl
    | ok ws => cases s.oddWord b (o + 2 + 2 * n) odd <;> simp

/-- The words of a region are its bytes in pairs (40_checksum R142). -/
theorem State.words_of_memRead {s : State} {b : Buf} {o n : Nat} {odd : Bool} {bs : List Byte}
    (h : s.memRead b o (2 * n + odd.toNat) = .ok bs) : s.words b o n odd = .ok (beWords bs) := by
  induction n generalizing o bs with
  | zero =>
    cases odd with
    | false =>
      obtain rfl : [] = bs := Except.ok.inj h
      rfl
    | true =>
      obtain ⟨v, hv, h⟩ := bind_eq_ok.1 h
      obtain rfl : [v] = bs := Except.ok.inj h
      rw [State.words_zero_odd, hv]
      rfl
  | succ n ih =>
    rw [show 2 * (n + 1) + odd.toNat = (2 * n + odd.toNat) + 1 + 1 by omega] at h
    obtain ⟨hi, hhi, h⟩ := bind_eq_ok.1 h
    obtain ⟨_, h, hbs⟩ := bind_eq_ok.1 h
    obtain ⟨lo, hlo, h⟩ := bind_eq_ok.1 h
    obtain ⟨rest, hrest, h⟩ := bind_eq_ok.1 h
    cases h
    cases hbs
    have hw : s.be16 b o = .ok (hi ++ lo) := State.be16_eq_ok.2 ⟨hi, lo, hhi, hlo, rfl⟩
    rw [State.words_succ, hw, ok_bind, ih hrest]
    rfl

/-- Settles O7. -/
theorem regionWordsAreBytePairs : Obligations.RegionWordsAreBytePairs :=
  fun _ _ _ _ _ _ => State.words_of_memRead

/-- Bytes after an even number of bytes start a word of their own (40_checksum R148). -/
theorem beWords_append {n : Nat} {as : List Byte} (h : as.length = 2 * n) (bs : List Byte) :
    beWords (as ++ bs) = beWords as ++ beWords bs := by
  induction n generalizing as with
  | zero => rw [List.eq_nil_of_length_eq_zero h]; rfl
  | succ n ih =>
    match as, h with
    | x :: y :: rest, h => exact congrArg _ (ih (by simpa [Nat.mul_succ] using h))

/-! ### Generate, then verify -/

/-- An operation that can meet no fault at all answers. -/
theorem OnlyFaults.exists_ok {α : Type} {x : Except Fault α} (h : OnlyFaults x fun _ => False) : ∃ a, x = .ok a := by
  cases hx : x with
  | ok a => exact ⟨a, rfl⟩
  | error e => exact (h e hx).elim

/-- The words of a region depend on the bytes of its buffer only. -/
theorem State.words_congr_of_readByte {s t : State} {b : Buf} (h : ∀ a, t.readByte b a = s.readByte b a) (o n : Nat)
    (odd : Bool) : t.words b o n odd = s.words b o n odd := by
  induction n generalizing o with
  | zero => cases odd <;> simp [h]
  | succ n ih => simp only [State.words_succ, State.be16, h, ih]

/-- The state with a 16-bit field stored, which is what `put16` answers inside the buffer. -/
def State.withHalf (s : State) (b : Buf) (f : Nat) (v : Half) : State :=
  s.setMem b ((s.mem b).putBytes f (halfBytes v))

section
variable {s : State} {b : Buf} {f : Nat}

theorem State.put16_eq_withHalf (h : f + 2 ≤ s.size b) (v : Half) : s.put16 b f v = .ok (s.withHalf b f v) :=
  State.put16_ok v h

@[simp] theorem State.withHalf_size (s : State) (b b' : Buf) (f : Nat) (v : Half) :
    (s.withHalf b f v).size b' = s.size b' := State.setMem_size ..

theorem State.withHalf_readByte_field (h : f + 2 ≤ s.size b) (v : Half) {a : Nat} (ha : f ≤ a ∧ a < f + 2) :
    (s.withHalf b f v).readByte b a = .ok ((halfBytes v)[a - f]'(by simp; omega)) := by
  rw [State.withHalf, State.readByte_putBytes, dif_pos (by simpa using ha), if_pos (by omega)]

theorem State.withHalf_readByte_ne {b' : Buf} {a : Nat} (v : Half) (h : b' ≠ b ∨ (a ≠ f ∧ a ≠ f + 1)) :
    (s.withHalf b f v).readByte b' a = s.readByte b' a :=
  State.readByte_putBytes_outside s (h.imp id fun ha => by simp; omega)

/-- A stored field reads back. -/
theorem State.withHalf_be16 (h : f + 2 ≤ s.size b) (v : Half) : (s.withHalf b f v).be16 b f = .ok v := by
  refine State.be16_eq_ok.2 ⟨_, _, State.withHalf_readByte_field h v (a := f) (by omega),
    State.withHalf_readByte_field h v (a := f + 1) (by omega), ?_⟩
  simp only [Nat.sub_self, Nat.add_sub_cancel_left]
  exact BitVec.extractLsb'_append_extractLsb'_eq_extractLsb' (by omega) |>.trans (by simp)

/-- A field stored over another value is that field stored. -/
theorem State.withHalf_withHalf_readByte (h : f + 2 ≤ s.size b) (u v : Half) (a : Nat) :
    ((s.withHalf b f u).withHalf b f v).readByte b a = (s.withHalf b f v).readByte b a := by
  by_cases ha : f ≤ a ∧ a < f + 2
  · rw [State.withHalf_readByte_field (by simpa using h) v ha, State.withHalf_readByte_field h v ha]
  · have hne : b ≠ b ∨ (a ≠ f ∧ a ≠ f + 1) := .inr (by omega)
    simp only [State.withHalf_readByte_ne _ hne]

/-- A region that could be read can be read with a field stored in its buffer. -/
theorem State.RangeFaults.withHalf {o n : Nat} {P : Fault → Prop} (h : s.RangeFaults b o n P) (hf : f + 2 ≤ s.size b)
    (v : Half) : (s.withHalf b f v).RangeFaults b o n P := by
  intro a hlow hhigh
  by_cases ha : f ≤ a ∧ a < f + 2
  · exact .of_eq_ok (State.withHalf_readByte_field hf v ha)
  · rw [State.withHalf_readByte_ne v (.inr (by omega))]
    exact h a hlow hhigh

/-- The words that verify sums after a field has been stored are those with the field read as zero: the stored
value is not among them (40_checksum R145). -/
theorem State.wordsZ_withHalf (hf : f + 2 ≤ s.size b) (v : Half) (o n : Nat) (odd : Bool) :
    (s.withHalf b f v).wordsZ b o n odd f = (s.withHalf b f 0x0000).words b o n odd := by
  rw [State.wordsZ, State.put16_eq_withHalf (by simpa using hf), ok_bind]
  exact State.words_congr_of_readByte (State.withHalf_withHalf_readByte hf v 0x0000) o n odd

/-- A region whose field holds the checksum of the region with the field zero verifies (40_checksum R150). -/
theorem State.verify_withHalf {o n : Nat} {odd : Bool} {ws : List Half} (hf : f + 2 ≤ s.size b)
    (hws : (s.withHalf b f 0x0000).words b o n odd = .ok ws) :
    (s.withHalf b f (inet ws)).verify b o n odd f = .ok (true, (s.withHalf b f (inet ws)).accRelease) :=
  State.verify_eq_ok.2 ⟨inet ws, ws, State.withHalf_be16 hf _, (State.wordsZ_withHalf hf _ o n odd).trans hws,
    by rw [decide_eq_true rfl]⟩

@[simp] theorem State.accRelease_size (s : State) (b : Buf) : s.accRelease.size b = s.size b :=
  State.size_congr rfl b

@[simp] theorem State.accRelease_readByte (s : State) (b : Buf) (a : Nat) :
    s.accRelease.readByte b a = s.readByte b a :=
  State.readByte_congr rfl (by cases b <;> rfl) a

/-- ACC is no part of what a stored field changes. -/
theorem State.accRelease_withHalf (s : State) (b : Buf) (f : Nat) (v : Half) :
    s.accRelease.withHalf b f v = (s.withHalf b f v).accRelease := by
  cases b <;> rfl

end

/-- Settles O9: generate stores the checksum `inet ws` of the region with the field zero, and verify sums the same
words `ws` again. -/
theorem generateThenVerify : Obligations.GenerateThenVerify := by
  unfold Obligations.GenerateThenVerify
  intro s b o n odd f bs hbs hf
  obtain ⟨ws, hws⟩ := ((State.RangeFaults.of_memRead hbs).withHalf hf 0x0000).words.exists_ok
  have hsize : f + 2 ≤ (s.withHalf b f 0x0000).accRelease.size b := by simpa using hf
  have hgenerate : s.generate b o n odd f = .ok ((s.withHalf b f 0x0000).accRelease.withHalf b f (inet ws)) :=
    State.generate_eq_ok.2 ⟨_, ws, State.put16_eq_withHalf hf _, hws, State.put16_eq_withHalf hsize _⟩
  have hagain : ((s.withHalf b f 0x0000).accRelease.withHalf b f 0x0000).words b o n odd = .ok ws := by
    rw [← hws]
    exact State.words_congr_of_readByte
      (fun a => by rw [State.accRelease_withHalf, State.accRelease_readByte, State.withHalf_withHalf_readByte hf]) o n odd
  have hwrote := State.WroteBuffers.generate hgenerate
  refine ⟨_, _, hgenerate, State.verify_withHalf hsize hagain, fun b' a ha => ?_, hwrote.regs, hwrote.status,
    hwrote.ports, hwrote.phase⟩
  rw [State.withHalf_readByte_ne _ ha, State.accRelease_readByte, State.withHalf_readByte_ne _ ha]

/-! ### CSUM and CSUM2 -/

/-- A region's end is the exact sum, with no wrap-around (40_checksum R149). -/
theorem State.inRange_iff {s : State} {r : Region} {odd : Bool} :
    s.inRange r odd = true ↔ r.off.toNat + 2 * r.n.toNat + odd.toNat ≤ s.size r.sel := by
  rw [State.inRange, decide_eq_true_iff, Region.endOff, Region.byteLen, Nat.add_assoc]

theorem execCsum_of_not_inRange {s : State} (h : s.inRange s.lat.a s.lat.odd = false) :
    execCsum s = .next (s.finish .errRange) := by
  rw [execCsum, if_pos h, settle_ok]

theorem execCsum_of_words {s : State} {ws : List Half} (hin : s.inRange s.lat.a s.lat.odd = true)
    (hws : s.regionWords s.lat.a s.lat.odd = .ok ws) : execCsum s = .next (s.finishCsum ws) := by
  rw [execCsum, if_neg (by simp [hin]), hws, ok_bind, settle_ok]

theorem execCsum2_of_not_inRange {s : State}
    (h : s.inRange s.lat.a false = false ∨ s.inRange s.lat.b s.lat.odd = false) :
    execCsum2 s = .next (s.finish .errRange) := by
  unfold execCsum2
  by_cases ha : s.inRange s.lat.a false = false
  · rw [if_pos ha, settle_ok]
  · rw [if_neg ha, if_pos (h.resolve_left ha), settle_ok]

theorem execCsum2_of_words {s : State} {wa wb : List Half} (ha : s.inRange s.lat.a false = true)
    (hb : s.inRange s.lat.b s.lat.odd = true) (hwa : s.regionWords s.lat.a false = .ok wa)
    (hwb : s.regionWords s.lat.b s.lat.odd = .ok wb) : execCsum2 s = .next (s.finishCsum (wa ++ wb)) := by
  rw [execCsum2, if_neg (by simp [ha]), if_neg (by simp [hb]), hwa, ok_bind, hwb, ok_bind, settle_ok]

theorem State.finishCsum_ended (s : State) (ws : List Half) : s.Ended (s.finishCsum ws) .csumOk := by
  rw [State.finishCsum_eq]
  exact ⟨rfl, rfl, rfl, rfl, rfl⟩

theorem State.finishCsum_regs (s : State) (ws : List Half) :
    (s.finishCsum ws).regs = { s.regs with csResult := inet ws } := by
  rw [State.finishCsum_eq]
  rfl

theorem State.finishCsum_frame (s : State) (ws : List Half) :
    (s.finishCsum ws).ports = s.ports ∧ s.SameBytes (s.finishCsum ws) ∧ s.SameWorld (s.finishCsum ws) := by
  rw [State.finishCsum_eq]
  generalize inet ws = r
  exact ⟨rfl, State.sameBytes_of_buffers rfl rfl rfl, rfl, rfl⟩

/-- Settles O12. -/
theorem outOfRangeRegions : Obligations.OutOfRangeRegions :=
  ⟨fun _ _ _ => State.inRange_iff,
    fun _ h => ⟨_, execCsum_of_not_inRange h, State.dropped_of_finish (.inl rfl)⟩,
    fun _ h => ⟨_, execCsum2_of_not_inRange h, State.dropped_of_finish (.inl rfl)⟩⟩

/-- Settles O10: the region's words are `State.words_of_memRead`, the command's end `State.finishCsum_eq`. -/
theorem csumComputesRegion : Obligations.CsumComputesRegion := by
  unfold Obligations.CsumComputesRegion
  intro s bs hin hbs
  exact ⟨_, execCsum_of_words (State.inRange_iff.2 hin) (State.words_of_memRead hbs), s.finishCsum_ended _,
    s.finishCsum_regs _, s.finishCsum_frame _⟩

/-- Settles O11: as O10 with the words of both regions; region A is of whole words, so its bytes and region B's
make one region. -/
theorem csum2ComputesBothRegions : Obligations.Csum2ComputesBothRegions := by
  unfold Obligations.Csum2ComputesBothRegions
  intro s as bs hina hinb has hbs
  have hjoined : beWords (as ++ bs) = beWords as ++ beWords bs := beWords_append (State.memRead_length has) bs
  exact ⟨_, execCsum2_of_words (State.inRange_iff.2 hina) (State.inRange_iff.2 hinb) (State.words_of_memRead has)
    (State.words_of_memRead hbs), s.finishCsum_ended _, s.finishCsum_regs _, by rw [hjoined], s.finishCsum_frame _⟩

end Sys2Proof.Machine
end

section
/-! PROOF. A host write to CMD, in BUSY and in IDLE (41_dispatch R170). -/

namespace Sys2Proof.Machine

/-- What the command words latch of the operand registers (10_state R56). -/
theorem State.accept_lat_proc (s : State) :
    (s.accept 0x1).lat.frameLen = s.regs.frameLen ∧ (s.accept 0x1).lat.devIp = s.regs.devIp := by
  rw [State.accept_lat, show (0x1 : Word).setWidth 4 = 0x1 from rfl, latchOperands_proc]
  exact ⟨rfl, rfl⟩

theorem State.accept_lat_csum {w : Word} (hw : w = 0x2 ∨ w = 0x3) (s : State) :
    (s.accept w).lat.a = s.regs.csA ∧ (s.accept w).lat.b = s.regs.csB ∧ (s.accept w).lat.odd = s.regs.csOdd := by
  rcases hw with rfl | rfl
  · rw [State.accept_lat, show (0x2 : Word).setWidth 4 = 0x2 from rfl, latchOperands_csum]
    exact ⟨rfl, rfl, rfl⟩
  · rw [State.accept_lat, show (0x3 : Word).setWidth 4 = 0x3 from rfl, latchOperands_csum2]
    exact ⟨rfl, rfl, rfl⟩

/-- Settles O27: the three cases of `State.cmdWrite_cases`, each with the two others' clauses vacuous. -/
theorem commandAcceptance : Obligations.CommandAcceptance := by
  unfold Obligations.CommandAcceptance
  intro s w rest hs
  have hstep : step s = .next ((s.withScript rest).cmdWrite w) := step_of_namesWrite hs (.inl rfl)
  have hmem : w ∈ [(0x1 : Word), 0x2, 0x3] ↔ w = 0x1 ∨ w = 0x2 ∨ w = 0x3 := by simp
  rw [hmem]
  rcases (s.withScript rest).cmdWrite_cases w with ⟨hbusy, he⟩ | ⟨hidle, hw, he⟩ | ⟨hidle, hw, he⟩
  · refine ⟨_, hstep.trans (congrArg _ he), rfl, rfl, State.sameBytes_of_buffers rfl rfl rfl, rfl, rfl,
      fun _ => ⟨rfl, rfl, rfl⟩, fun h => ?_, fun h => ?_⟩ <;> simp [h] at hbusy
  · refine ⟨_, hstep.trans (congrArg _ he), rfl, rfl, State.sameBytes_of_buffers rfl rfl rfl, rfl, rfl,
      fun h => ?_, fun _ h => absurd hw h, fun _ _ => ⟨rfl, rfl, latchOperands_op .., ?_, fun h => ?_⟩⟩
    · simp [show s.phase = .idle from hidle] at h
    · rintro rfl
      exact State.accept_lat_proc _
    · exact State.accept_lat_csum h _
  · refine ⟨_, hstep.trans (congrArg _ he), rfl, rfl, State.sameBytes_of_buffers rfl rfl rfl, rfl, rfl,
      fun h => ?_, fun _ _ => ⟨rfl, rfl⟩, fun _ h => absurd h hw⟩
    simp [show s.phase = .idle from hidle] at h

end Sys2Proof.Machine
end

section
/-! PROOF. What each instruction leaves unchanged (41_dispatch R177, 70_reset R297, R298). -/

namespace Sys2Proof.Machine

/-! ### Which bytes an operation can change -/

/-- Every byte reads as before but those of the buffer `b` at the offsets of `p`. -/
def State.ChangedOnly (s t : State) (b : Buf) (p : Nat → Prop) : Prop :=
  ∀ b' o, b' ≠ b ∨ ¬p o → t.readByte b' o = s.readByte b' o

namespace State.ChangedOnly

variable {s t u : State} {b : Buf} {p q : Nat → Prop}

theorem refl : s.ChangedOnly s b p := fun _ _ _ => rfl

theorem trans (h1 : s.ChangedOnly t b p) (h2 : t.ChangedOnly u b p) : s.ChangedOnly u b p :=
  fun b' o h => (h2 b' o h).trans (h1 b' o h)

theorem mono (h : s.ChangedOnly t b p) (hpq : ∀ o, p o → q o) : s.ChangedOnly t b q :=
  fun b' o ho => h b' o (ho.imp_right (mt (hpq o)))

theorem accRelease : s.ChangedOnly s.accRelease b p := fun b' o _ => s.accRelease_readByte b' o

theorem memWrite {o : Nat} {bs : List Byte} (h : s.memWrite b o bs = .ok t)
    (hp : ∀ a, o ≤ a → a < o + bs.length → p a) : s.ChangedOnly t b p := by
  rw [State.memWrite_eq h]
  refine fun b' a ha => State.readByte_putBytes_outside s (ha.imp_right fun hnot => ?_)
  by_contra hin
  exact hnot (hp a (by omega) (by omega))

theorem writeByte {o : Nat} {v : Byte} (h : s.writeByte b o v = .ok t) (hp : p o) : s.ChangedOnly t b p :=
  memWrite (o := o) (bs := [v]) (by simp [State.memWrite, h]) fun a h1 h2 => by
    obtain rfl : a = o := by simp at h2; omega
    exact hp

theorem put16 {o : Nat} {v : Half} (h : s.put16 b o v = .ok t) (hp : p o ∧ p (o + 1)) : s.ChangedOnly t b p :=
  memWrite h fun a h1 h2 => by
    rw [halfBytes_length] at h2
    obtain rfl | rfl : a = o ∨ a = o + 1 := by omega
    · exact hp.1
    · exact hp.2

theorem generate {o n f : Nat} {odd : Bool} (h : s.generate b o n odd f = .ok t) (hp : p f ∧ p (f + 1)) :
    s.ChangedOnly t b p := by
  obtain ⟨z, ws, hz, -, ht⟩ := State.generate_eq_ok.1 h
  exact (put16 hz hp).trans (accRelease.trans (put16 ht hp))

end State.ChangedOnly

section
variable {s t : State}

/-- 42_arp R197, R199. -/
theorem State.arpBuildReply_changedOnly (h : s.arpBuildReply = .ok t) :
    s.ChangedOnly t .rx fun o => o < 12 ∨ (20 ≤ o ∧ o < 42) := by
  simp only [State.arpBuildReply, bind_eq_ok] at h
  obtain ⟨esrc, hesrc, sha, hsha, spa, hspa, tpa, htpa, _, h1, _, h2, _, h3, _, h4, _, h5, _, h6, h7⟩ := h
  have lesrc := State.memRead_length hesrc
  have lsha := State.memRead_length hsha
  have lspa := State.memRead_length hspa
  have ltpa := State.memRead_length htpa
  have lmac (m : Mac) : m.bytes.length = 6 := rfl
  exact (State.ChangedOnly.memWrite h1 (by omega)).trans <|
    (State.ChangedOnly.memWrite h2 (by simp only [lmac]; omega)).trans <|
    (State.ChangedOnly.put16 h3 (by omega)).trans <|
    (State.ChangedOnly.memWrite h4 (by omega)).trans <|
    (State.ChangedOnly.memWrite h5 (by omega)).trans <|
    (State.ChangedOnly.memWrite h6 (by omega)).trans <|
    State.ChangedOnly.memWrite h7 (by simp only [lmac]; omega)

/-- 44_icmp R235. -/
theorem State.swapMacs_changedOnly (h : s.swapMacs = .ok t) : s.ChangedOnly t .rx fun o => o < 12 := by
  simp only [State.swapMacs, bind_eq_ok] at h
  obtain ⟨m, hm, src, hsrc, _, h1, h2⟩ := h
  have lm := State.memRead_length hm
  have lsrc := State.memRead_length hsrc
  exact (State.ChangedOnly.memWrite h1 (by omega)).trans (.memWrite h2 (by omega))

/-- 44_icmp R236. -/
theorem State.swapIps_changedOnly (h : s.swapIps = .ok t) : s.ChangedOnly t .rx fun o => 26 ≤ o ∧ o < 34 := by
  simp only [State.swapIps, bind_eq_ok] at h
  obtain ⟨a, ha, dst, hdst, _, h1, h2⟩ := h
  have la := State.memRead_length ha
  have ldst := State.memRead_length hdst
  exact (State.ChangedOnly.memWrite h1 (by omega)).trans (.memWrite h2 (by omega))

/-- 44_icmp R234-R238, R240 (d). -/
theorem State.icmpBuildReply_changedOnly {ihl ilen : Nat} (h : s.icmpBuildReply ihl ilen = .ok t) :
    s.ChangedOnly t .rx fun o => o < 12 ∨ (24 ≤ o ∧ o < 34) ∨ o = payloadOff ihl ∨ o = payloadOff ihl + 2
      ∨ o = payloadOff ihl + 3 := by
  simp only [State.icmpBuildReply, bind_eq_ok] at h
  obtain ⟨_, h1, _, h2, _, h3, _, h4, h5⟩ := h
  exact (State.ChangedOnly.writeByte h1 (by omega)).trans <|
    ((State.swapMacs_changedOnly h2).mono (by omega)).trans <|
    ((State.swapIps_changedOnly h3).mono (by omega)).trans <|
    (State.ChangedOnly.generate h4 (by omega)).trans (.generate h5 (by omega))

/-- 45_udp R252: the pseudo-header and the header copy are 20 bytes of TX. -/
theorem State.buildPseudoHeader_changedOnly {p : Nat} {len : Half} (h : s.buildPseudoHeader p len = .ok t) :
    s.ChangedOnly t .tx fun o => o < 20 := by
  simp only [State.buildPseudoHeader, bind_eq_ok] at h
  obtain ⟨src, hsrc, _, h1, dst, hdst, _, h2, _, h3, _, h4, _, h5, ports, hports, _, h6, _, h7, h8⟩ := h
  have lsrc := State.memRead_length hsrc
  have ldst := State.memRead_length hdst
  have lports := State.memRead_length hports
  exact (State.ChangedOnly.memWrite h1 (by omega)).trans <|
    (State.ChangedOnly.memWrite h2 (by omega)).trans <|
    (State.ChangedOnly.writeByte h3 (by omega)).trans <|
    (State.ChangedOnly.writeByte h4 (by omega)).trans <|
    (State.ChangedOnly.put16 h5 (by omega)).trans <|
    (State.ChangedOnly.memWrite h6 (by omega)).trans <|
    (State.ChangedOnly.put16 h7 (by omega)).trans (.put16 h8 (by omega))

end

/-! ### ACC -/

section
variable {s t : State}

theorem State.memWrite_acc {b : Buf} {o : Nat} {bs : List Byte} (h : s.memWrite b o bs = .ok t) : t.acc = s.acc := by
  rw [State.memWrite_eq h, State.setMem_acc]

theorem State.writeByte_acc {b : Buf} {o : Nat} {v : Byte} (h : s.writeByte b o v = .ok t) : t.acc = s.acc := by
  rw [(State.writeByte_eq_ok.1 h).2, State.setMem_acc]

theorem State.arpBuildReply_acc (h : s.arpBuildReply = .ok t) : t.acc = s.acc := by
  simp only [State.arpBuildReply, State.put16, bind_eq_ok] at h
  obtain ⟨_, -, _, -, _, -, _, -, _, h1, _, h2, _, h3, _, h4, _, h5, _, h6, h7⟩ := h
  rw [memWrite_acc h7, memWrite_acc h6, memWrite_acc h5, memWrite_acc h4, memWrite_acc h3, memWrite_acc h2,
    memWrite_acc h1]

theorem State.buildPseudoHeader_acc {p : Nat} {len : Half} (h : s.buildPseudoHeader p len = .ok t) :
    t.acc = s.acc := by
  simp only [State.buildPseudoHeader, State.put16, bind_eq_ok] at h
  obtain ⟨_, -, _, h1, _, -, _, h2, _, h3, _, h4, _, h5, _, -, _, h6, _, h7, h8⟩ := h
  rw [memWrite_acc h8, memWrite_acc h7, memWrite_acc h6, memWrite_acc h5, writeByte_acc h4, writeByte_acc h3,
    memWrite_acc h2, memWrite_acc h1]

end

/-! ### What an instruction does: work in the buffers, then an end -/

/-- The rows that compute no checksum (40_checksum R140). -/
def Instr.computesNoSum : List Instr := [.proc, .arpReq, .icmp, .udp, .udpCsumNone]

/-- What an instruction can do to the buffers and ACC before it writes registers and STATUS. -/
inductive State.Works (i : Instr) (s : State) : State → Prop
  | nothing : State.Works i s s
  /-- A checksum computation leaves ACC free (10_state R54). -/
  | sum (hi : i ∉ Instr.computesNoSum) : State.Works i s s.accRelease
  /-- A reply is built in RX (42_arp R197, 44_icmp R234). -/
  | reply (hi : i = .arpReq ∨ i = .icmpEchoReq) (u : State) (p : Nat → Prop) (wrote : s.WroteBuffers u)
      (changed : s.ChangedOnly u .rx p) (acc : i = .arpReq → u.acc = s.acc) : State.Works i s u
  /-- The pseudo-header is built in TX (45_udp R252). -/
  | pseudoHeader (hi : i = .udp) (u : State) (wrote : s.WroteBuffers u)
      (changed : s.ChangedOnly u .tx fun o => o < 20) (acc : u.acc = s.acc) : State.Works i s u

/-- How an instruction can end: the command goes on, or finishes after a write of one information register. -/
inductive State.Closes (i : Instr) (u : State) : State → Prop
  | enter (f : Format) : State.Closes i u (u.enter f)
  | finish (code : OutcomeCode) : State.Closes i u (u.finish code)
  | result (hi : i = .csum ∨ i = .csum2) (r : Half) : State.Closes i u ((u.setResult r).finish .csumOk)
  | transmit (hi : i = .arpReq ∨ i = .icmpEchoReq) (len : Half) (code : OutcomeCode) :
      State.Closes i u ((u.emitTransmit len).finish code)
  | handOff (hi : i.format = .udpCsum) (p : Nat) (len : Half) : State.Closes i u (u.handOff p len)

section
variable {i : Instr} {s t u : State}

theorem State.finishCsum_worksAndCloses (hi : i = .csum ∨ i = .csum2) (ws : List Half) :
    ∃ u, s.Works i u ∧ u.Closes i (s.finishCsum ws) := by
  rw [State.finishCsum_eq]
  exact ⟨_, .sum (by rcases hi with rfl | rfl <;> decide), .result hi _⟩

theorem State.udpCompare_worksAndCloses (hi : i.format = .udpCsum) (hsum : i ∉ Instr.computesNoSum) {e : Half}
    (h : s.udpCompare e = .ok t) : ∃ u, s.Works i u ∧ u.Closes i t := by
  obtain ⟨ihl, len, ws, -, -, -, ⟨-, rfl⟩ | ⟨-, rfl⟩⟩ := State.udpCompare_eq_ok h
  · exact ⟨_, .sum hsum, .finish _⟩
  · exact ⟨_, .sum hsum, .handOff hi _ len⟩

theorem exec_worksAndCloses (h : exec i s = .next t) : ∃ u, s.Works i u ∧ u.Closes i t := by
  cases i with
  | proc =>
    rcases execProc_next h with rfl | ⟨code, rfl⟩
    · exact ⟨s, .nothing, .enter _⟩
    · exact ⟨s, .nothing, .finish code⟩
  | csum =>
    rcases execCsum_next h with rfl | ⟨ws, -, rfl⟩
    · exact ⟨s, .nothing, .finish _⟩
    · exact State.finishCsum_worksAndCloses (.inl rfl) ws
  | csum2 =>
    rcases execCsum2_next h with rfl | ⟨wa, wb, -, -, rfl⟩
    · exact ⟨s, .nothing, .finish _⟩
    · exact State.finishCsum_worksAndCloses (.inr rfl) (wa ++ wb)
  | arpReq =>
    rcases execArpReq_next h with ⟨code, rfl⟩ | ⟨u, hu, rfl⟩
    · exact ⟨s, .nothing, .finish code⟩
    · exact ⟨u, .reply (.inl rfl) u _ (.arpBuildReply hu) (State.arpBuildReply_changedOnly hu)
        fun _ => State.arpBuildReply_acc hu, .transmit (.inl rfl) _ _⟩
  | ipv4Unicast =>
    rcases execIpv4Unicast_next h with ⟨code, rfl⟩ | ⟨code, rfl⟩ | rfl
    · exact ⟨s, .nothing, .finish code⟩
    · exact ⟨_, .sum (by decide), .finish code⟩
    · exact ⟨_, .sum (by decide), .enter _⟩
  | icmp =>
    rcases execIcmp_next h with rfl | ⟨code, rfl⟩
    · exact ⟨s, .nothing, .enter _⟩
    · exact ⟨s, .nothing, .finish code⟩
  | icmpEchoReq =>
    rcases execIcmpEchoReq_next h with rfl | ⟨ihl, tl, u, -, -, hu, rfl⟩
    · exact ⟨_, .sum (by decide), .finish _⟩
    · exact ⟨u, .reply (.inr rfl) u _ ((State.WroteBuffers.accRelease s).trans (.icmpBuildReply hu))
        (State.ChangedOnly.accRelease.trans (State.icmpBuildReply_changedOnly hu)) (by simp),
        .transmit (.inr rfl) _ _⟩
  | udp =>
    rcases execUdp_next h with ⟨code, rfl⟩ | ⟨ihl, len, u, -, -, hu, rfl⟩
    · exact ⟨s, .nothing, .finish code⟩
    · exact ⟨u, .pseudoHeader rfl u (.buildPseudoHeader hu) (State.buildPseudoHeader_changedOnly hu)
        (State.buildPseudoHeader_acc hu), .enter _⟩
  | udpCsumNone =>
    obtain ⟨ihl, len, -, -, rfl⟩ := execUdpCsumNone_next h
    exact ⟨s, .nothing, .handOff rfl _ len⟩
  | udpCsumFfff => exact State.udpCompare_worksAndCloses rfl (by simp [Instr.computesNoSum]) (settle_eq_next.1 h)
  | udpCsum stored => exact State.udpCompare_worksAndCloses rfl (by simp [Instr.computesNoSum]) (settle_eq_next.1 h)

/-! ### What stays over the work -/

theorem State.Works.wrote (h : s.Works i u) : s.WroteBuffers u := by
  cases h with
  | nothing => exact .refl s
  | sum => exact .accRelease s
  | reply _ _ _ wrote => exact wrote
  | pseudoHeader _ _ wrote => exact wrote

theorem State.Works.rx (h : s.Works i u) :
    (∀ o, u.readByte .rx o = s.readByte .rx o) ∨ i = .arpReq ∨ i = .icmpEchoReq := by
  cases h with
  | nothing => exact .inl fun _ => rfl
  | sum => exact .inl (s.accRelease_readByte .rx)
  | reply hi => exact .inr hi
  | pseudoHeader _ _ _ changed => exact .inl fun o => changed .rx o (.inl (by decide))

theorem State.Works.tx (h : s.Works i u) {o : Nat} (ho : i = .udp → 20 ≤ o) :
    u.readByte .tx o = s.readByte .tx o := by
  cases h with
  | nothing => rfl
  | sum => exact s.accRelease_readByte .tx o
  | reply _ _ _ _ changed => exact changed .tx o (.inl (by decide))
  | pseudoHeader hi _ _ changed => exact changed .tx o (.inr (by have := ho hi; omega))

theorem State.Works.acc (h : s.Works i u) (hi : i ∈ Instr.computesNoSum) : u.acc = s.acc := by
  cases h with
  | nothing => rfl
  | sum hsum => exact absurd hi hsum
  | reply hreply _ _ _ _ acc =>
    rcases hreply with rfl | rfl
    · exact acc rfl
    · exact absurd hi (by decide)
  | pseudoHeader _ _ _ _ acc => exact acc

/-! ### What stays over the end -/

theorem State.Closes.world (h : u.Closes i t) : u.SameWorld t := by cases h <;> exact ⟨rfl, rfl⟩

theorem State.Closes.bytes (h : u.Closes i t) : u.SameBytes t := by
  cases h <;> exact State.sameBytes_of_buffers rfl rfl rfl

theorem State.Closes.acc (h : u.Closes i t) : t.acc = u.acc := by cases h <;> rfl

theorem State.Closes.operands (h : u.Closes i t) :
    t.regs.frameLen = u.regs.frameLen ∧ t.regs.devIp = u.regs.devIp ∧ t.regs.csA = u.regs.csA
      ∧ t.regs.csB = u.regs.csB ∧ t.regs.csOdd = u.regs.csOdd := by cases h <;> exact ⟨rfl, rfl, rfl, rfl, rfl⟩

theorem State.Closes.csResult (h : u.Closes i t) :
    t.regs.csResult = u.regs.csResult ∨ ((i = .csum ∨ i = .csum2) ∧ t.status.outcome = .csumOk) := by
  cases h with
  | result hi r => exact .inr ⟨hi, rfl⟩
  | _ => exact .inl rfl

theorem State.Closes.txLen (h : u.Closes i t) :
    t.regs.txLen = u.regs.txLen ∨ i = .arpReq ∨ i = .icmpEchoReq := by
  cases h with
  | transmit hi len code => exact .inr hi
  | _ => exact .inl rfl

theorem State.Closes.udpInfo (h : u.Closes i t) :
    (t.regs.udpOff = u.regs.udpOff ∧ t.regs.udpLen = u.regs.udpLen) ∨ i.format = .udpCsum := by
  cases h with
  | handOff hi p len => exact .inr hi
  | _ => exact .inl ⟨rfl, rfl⟩

theorem State.Closes.status (h : u.Closes i t) :
    t.status.errBusy = u.status.errBusy ∧ t.status.lastOp = u.status.lastOp := by cases h <;> exact ⟨rfl, rfl⟩

theorem State.Closes.goesOn (h : u.Closes i t) (hbusy : t.phase.isBusy = true) :
    t.status = u.status ∧ t.lat = u.lat := by
  cases h with
  | enter f => exact ⟨rfl, rfl⟩
  | _ => cases hbusy

end

/-- Settles O47: each clause is what the work or the end of the instruction leaves alone. -/
theorem everyInstructionFrame : Obligations.EveryInstructionFrame := by
  unfold Obligations.EveryInstructionFrame
  intro i s t h
  obtain ⟨u, hworks, hcloses⟩ := exec_worksAndCloses h
  have hwrote := hworks.wrote
  rw [← hwrote.regs, ← hwrote.status, ← hwrote.lat]
  obtain ⟨hlen, hip, ha, hb, hodd⟩ := hcloses.operands
  refine ⟨hlen, hip, ha, hb, hodd, hcloses.csResult, hcloses.txLen, hcloses.udpInfo, hcloses.status.1,
    hcloses.status.2, hcloses.goesOn, ?_, fun o ho => (hcloses.bytes .tx o).trans (hworks.tx ho),
    fun hi => hcloses.acc.trans (hworks.acc hi), hcloses.world.1.trans hwrote.cfg,
    hcloses.world.2.trans hwrote.env⟩
  exact hworks.rx.imp_left fun hrx o => (hcloses.bytes .rx o).trans (hrx o)

end Sys2Proof.Machine
end


section
/-! SUPPORT. A frame in RX as a byte list: what each read of the engine answers, and what each write makes of the
list. -/

namespace Sys2Proof.Machine

/-! ### Byte lists -/

theorem byteAt_eq_getElem {f : List Byte} {o : Nat} (h : o < f.length) : byteAt f o = f[o] :=
  List.getD_eq_getElem _ _ h

theorem byteAt_set (f : List Byte) {o : Nat} (v : Byte) (a : Nat) (h : o < f.length) :
    byteAt (f.set o v) a = if a = o then v else byteAt f a := by
  simp only [byteAt, List.getD_eq_getElem?_getD, List.getElem?_set]
  grind

theorem slice_length {f : List Byte} {o n : Nat} (h : o + n ≤ f.length) : (slice f o n).length = n := by
  rw [slice, List.length_take, List.length_drop]
  omega

theorem slice_getElem? (f : List Byte) (o n k : Nat) : (slice f o n)[k]? = if k < n then f[o + k]? else none := by
  rw [slice, List.getElem?_take, List.getElem?_drop]

/-- Two slices in a row are one. -/
theorem slice_append_slice (f : List Byte) (o m n : Nat) : slice f o m ++ slice f (o + m) n = slice f o (m + n) := by
  rw [slice, slice, slice, ← List.drop_drop, ← List.take_add]

/-- The list with consecutive bytes written from an offset on. -/
def overwrite (f : List Byte) (o : Nat) : List Byte → List Byte
  | [] => f
  | b :: bs => overwrite (f.set o b) (o + 1) bs

@[simp] theorem overwrite_length (f : List Byte) (o : Nat) (bs : List Byte) : (overwrite f o bs).length = f.length := by
  induction bs generalizing f o with
  | nil => rfl
  | cons b bs ih => simp [overwrite, ih]

theorem overwrite_getElem? (f : List Byte) (o : Nat) (bs : List Byte) (a : Nat) :
    (overwrite f o bs)[a]? = if o ≤ a ∧ a < o + bs.length ∧ a < f.length then bs[a - o]? else f[a]? := by
  induction bs generalizing f o with
  | nil => grind [overwrite]
  | cons b bs ih =>
    rw [overwrite, ih, List.getElem?_set, List.length_set, List.length_cons]
    grind

/-- A stored 16-bit field is its two bytes written. -/
theorem setHalf_eq_overwrite (f : List Byte) (o : Nat) (v : Half) : setHalf f o v = overwrite f o (halfBytes v) := rfl

@[simp] theorem setHalf_length (f : List Byte) (o : Nat) (v : Half) : (setHalf f o v).length = f.length := by
  simp [setHalf]

/-- A field stored over another value is that field stored. -/
theorem setHalf_setHalf (f : List Byte) (o : Nat) (u v : Half) : setHalf (setHalf f o u) o v = setHalf f o v := by
  simp only [setHalf]
  rw [List.set_comm _ _ (by omega : o + 1 ≠ o), List.set_set, List.set_set]

@[simp] theorem regenerated_length (f : List Byte) (o n fld : Nat) : (regenerated f o n fld).length = f.length :=
  setHalf_length ..

/-- The list with the `n` bytes at `o` and at `p` exchanged. -/
def exchange (f : List Byte) (o p n : Nat) : List Byte :=
  overwrite (overwrite f o (slice f p n)) p (slice f o n)

@[simp] theorem exchange_length (f : List Byte) (o p n : Nat) : (exchange f o p n).length = f.length := by
  simp [exchange]

theorem exchange_getElem? {f : List Byte} {o p n : Nat} (hop : o + n ≤ p) (hp : p + n ≤ f.length) (a : Nat) :
    (exchange f o p n)[a]? =
      if o ≤ a ∧ a < o + n then f[p + (a - o)]? else if p ≤ a ∧ a < p + n then f[o + (a - p)]? else f[a]? := by
  have lo : (slice f o n).length = n := slice_length (by omega)
  have lp : (slice f p n).length = n := slice_length hp
  simp only [exchange, overwrite_getElem?, overwrite_length, slice_getElem?, lo, lp]
  grind

/-- The writes of an echo reply before its checksums, over the frame's bytes (44_icmp R234-R236). -/
theorem exchange_eq_echoSwapped {f : List Byte} (hlen : 34 ≤ f.length) (hihl : 5 ≤ frameIhl f) :
    exchange (exchange (f.set (framePayload f) 0x00) 0 6 6) 26 30 4 = echoSwapped f := by
  have hp : 34 ≤ framePayload f := by simp only [framePayload]; omega
  have ldst : (slice f 0 6).length = 6 := slice_length (by omega)
  have lsrc : (slice f 6 6).length = 6 := slice_length (by omega)
  have lkept : (slice f 12 14).length = 14 := slice_length (by omega)
  have lfrom : (slice f 26 4).length = 4 := slice_length (by omega)
  have lto : (slice f 30 4).length = 4 := slice_length (by omega)
  have hmacs := exchange_getElem? (f := f.set (framePayload f) 0x00) (o := 0) (p := 6) (n := 6) le_rfl (by simp; omega)
  refine List.ext_getElem? fun a => ?_
  rw [exchange_getElem? (by omega) (by simpa using hlen)]
  simp only [hmacs, echoSwapped, List.getElem?_set, List.getElem?_append, slice_getElem?, List.getElem?_drop,
    List.length_append, List.length_drop, ldst, lsrc, lkept, lfrom, lto]
  grind

theorem echoReplyFrame_length {f : List Byte} (hlen : 34 ≤ f.length) (hihl : 5 ≤ frameIhl f) :
    (echoReplyFrame f).length = f.length := by
  rw [echoReplyFrame, regenerated_length, regenerated_length, ← exchange_eq_echoSwapped hlen hihl]
  simp

/-- The writes of an ARP reply, over the frame's bytes (42_arp R197). -/
def arpWrites (mac f : List Byte) : List Byte :=
  let headed := setHalf (overwrite (overwrite f 0 (slice f 6 6)) 6 mac) 20 arpReply
  overwrite (overwrite (overwrite (overwrite headed 32 (slice f 22 6)) 38 (slice f 28 4)) 28 (slice f 38 4)) 22 mac

theorem arpWrites_eq {mac f : List Byte} (hmac : mac.length = 6) (hlen : 42 ≤ f.length) :
    arpWrites mac f = arpReplyFrame mac f := by
  have lsrc : (slice f 6 6).length = 6 := slice_length (by omega)
  have lkept : (slice f 12 8).length = 8 := slice_length (by omega)
  have lsha : (slice f 22 6).length = 6 := slice_length (by omega)
  have lspa : (slice f 28 4).length = 4 := slice_length (by omega)
  have ltpa : (slice f 38 4).length = 4 := slice_length (by omega)
  have hreply : halfBytes arpReply = [0x00, 0x02] := by decide
  refine List.ext_getElem? fun a => ?_
  simp only [arpWrites, arpReplyFrame, setHalf_eq_overwrite, hreply, overwrite_getElem?, overwrite_length,
    slice_getElem?, lsrc, lkept, lsha, lspa, ltpa, hmac, List.getElem?_append, List.length_append, List.length_cons,
    List.length_nil, List.getElem?_drop]
  grind

theorem arpReplyFrame_length {mac f : List Byte} (hmac : mac.length = 6) (hlen : 42 ≤ f.length) :
    (arpReplyFrame mac f).length = f.length := by
  rw [← arpWrites_eq hmac hlen]
  simp [arpWrites]

/-! ### Reads -/

theorem State.memRead_congr_of_readByte {s t : State} {b : Buf} (h : ∀ o, t.readByte b o = s.readByte b o) (o n : Nat) :
    t.memRead b o n = s.memRead b o n := by
  induction n generalizing o with
  | zero => rfl
  | succ n ih => simp only [State.memRead, h, ih]

/-- RX holds the frame `f` from offset 0 on. -/
def State.HasFrame (s : State) (f : List Byte) : Prop := s.memRead .rx 0 f.length = .ok f

theorem State.hasFrame_of_memRead {s : State} {n : Nat} {f : List Byte} (h : s.memRead .rx 0 n = .ok f) :
    s.HasFrame f := by
  rw [State.HasFrame, State.memRead_length h, h]

theorem State.hasFrame_iff {s : State} {f : List Byte} :
    s.HasFrame f ↔ ∀ o < f.length, s.readByte .rx o = .ok (byteAt f o) := by
  simp only [State.HasFrame, State.memRead_eq_ok, true_and, Nat.zero_add]
  exact forall₂_congr fun o ho => by rw [byteAt_eq_getElem ho]

namespace State.HasFrame

variable {s t : State} {f : List Byte}

theorem congr (h : s.HasFrame f) (hrx : ∀ o, t.readByte .rx o = s.readByte .rx o) : t.HasFrame f :=
  hasFrame_iff.2 fun o ho => (hrx o).trans (hasFrame_iff.1 h o ho)

/-- Two states with the same frame differ past it at most. -/
theorem readByte_eq (hs : s.HasFrame f) (ht : t.HasFrame f)
    (hpast : ∀ o, f.length ≤ o → t.readByte .rx o = s.readByte .rx o) (o : Nat) :
    t.readByte .rx o = s.readByte .rx o := by
  rcases Nat.lt_or_ge o f.length with ho | ho
  · rw [hasFrame_iff.1 ht o ho, hasFrame_iff.1 hs o ho]
  · exact hpast o ho

variable (h : s.HasFrame f)
include h

theorem readByte {o : Nat} (ho : o < f.length) : s.readByte .rx o = .ok (byteAt f o) := hasFrame_iff.1 h o ho

theorem length_le : f.length ≤ s.size .rx := by
  rcases Nat.eq_zero_or_pos f.length with h0 | h0
  · omega
  · have hlast := (State.readByte_eq_ok.1 (h.readByte (o := f.length - 1) (by omega))).1
    omega

theorem memRead {o n : Nat} (ho : o + n ≤ f.length) : s.memRead .rx o n = .ok (slice f o n) := by
  refine State.memRead_eq_ok.2 ⟨slice_length ho, fun k hk => ?_⟩
  rw [slice_length ho] at hk
  rw [h.readByte (by omega), byteAt_eq_getElem (by omega)]
  simp [slice]

theorem be16 {o : Nat} (ho : o + 2 ≤ f.length) : s.be16 .rx o = .ok (halfAt f o) :=
  State.be16_eq_ok.2 ⟨_, _, h.readByte (by omega), h.readByte (by omega), rfl⟩

theorem be32 {o : Nat} (ho : o + 4 ≤ f.length) : s.be32 .rx o = .ok (wordAt f o) := by
  rw [State.be32, h.be16 (by omega), ok_bind, h.be16 (by omega), ok_bind]
  rfl

theorem etherType (ho : 14 ≤ f.length) : s.etherType = .ok (halfAt f 12) := h.be16 ho

theorem dstMac (ho : 6 ≤ f.length) : s.dstMac = .ok (slice f 0 6) := h.memRead ho

theorem ihl (ho : 15 ≤ f.length) : s.ihl = .ok (frameIhl f) := by
  rw [State.ihl, h.readByte (by omega), ok_bind, BitVec.extractLsb'_toNat]
  rfl

theorem totalLen (ho : 18 ≤ f.length) : s.totalLen = .ok (frameTotalLen f) := by
  rw [State.totalLen, h.be16 (by omega), ok_bind]
  rfl

theorem udpLength (ho : framePayload f + 6 ≤ f.length) : s.udpLength (payloadOff (frameIhl f)) = .ok (frameUdpLen f) :=
  h.be16 (o := framePayload f + 4) (by omega)

theorem words {o n : Nat} {odd : Bool} (ho : o + (2 * n + odd.toNat) ≤ f.length) :
    s.words .rx o n odd = .ok (beWords (slice f o (2 * n + odd.toNat))) :=
  State.words_of_memRead (h.memRead ho)

/-! ### Writes -/

theorem writeByte {o : Nat} (v : Byte) (ho : o < f.length) :
    ∃ t, s.writeByte .rx o v = .ok t ∧ t.HasFrame (f.set o v) ∧ t.cfg = s.cfg := by
  have hin := h.length_le
  refine ⟨_, State.writeByte_eq_ok.2 ⟨by omega, rfl⟩, hasFrame_iff.2 fun a ha => ?_, rfl⟩
  rw [List.length_set] at ha
  rw [byteAt_set f v a ho]
  have hread := s.readByte_putBytes .rx o [v] a
  simp only [Memory.putBytes, List.length_singleton] at hread
  rw [hread]
  by_cases hao : a = o
  · subst hao
    simp [show a < s.size .rx by omega]
  · rw [dif_neg (by omega), if_neg hao, h.readByte ha]

theorem memWrite {o : Nat} {bs : List Byte} (ho : o + bs.length ≤ f.length) :
    ∃ t, s.memWrite .rx o bs = .ok t ∧ t.HasFrame (overwrite f o bs) ∧ t.cfg = s.cfg := by
  induction bs generalizing s f o with
  | nil => exact ⟨s, rfl, h, rfl⟩
  | cons b bs ih =>
    simp only [List.length_cons] at ho
    obtain ⟨u, hu, hf, hcfg⟩ := h.writeByte b (o := o) (by omega)
    obtain ⟨t, ht, hf', hcfg'⟩ := ih hf (o := o + 1) (by simpa using by omega)
    exact ⟨t, by rw [State.memWrite, hu, ok_bind, ht], hf', hcfg'.trans hcfg⟩

theorem put16 {o : Nat} (v : Half) (ho : o + 2 ≤ f.length) :
    ∃ t, s.put16 .rx o v = .ok t ∧ t.HasFrame (setHalf f o v) ∧ t.cfg = s.cfg := h.memWrite (bs := halfBytes v) ho

theorem accRelease : s.accRelease.HasFrame f := h.congr (s.accRelease_readByte .rx)

/-! ### Verify and generate -/

section
variable {o n fld : Nat} {odd : Bool} (ho : o + (2 * n + odd.toNat) ≤ f.length) (hfld : fld + 2 ≤ f.length)
include ho hfld

/-- Verify is the comparison over the frame's bytes (40_checksum R150). -/
theorem verify : s.verify .rx o n odd fld = .ok (verifies f o (2 * n + odd.toNat) fld, s.accRelease) := by
  obtain ⟨z, hz, hzero, -⟩ := h.put16 0x0000 hfld
  refine State.verify_eq_ok.2 ⟨_, _, h.be16 hfld, ?_, rfl⟩
  rw [State.wordsZ, hz, ok_bind, hzero.words (by simpa using ho)]

/-- Generate regenerates the frame's field (40_checksum R151). -/
theorem generate : ∃ t, s.generate .rx o n odd fld = .ok t
    ∧ t.HasFrame (regenerated f o (2 * n + odd.toNat) fld) := by
  obtain ⟨z, hz, hzero, -⟩ := h.put16 0x0000 hfld
  obtain ⟨t, ht, hframe, -⟩ := hzero.accRelease.put16 (zeroFieldChecksum f o (2 * n + odd.toNat) fld)
    (by simpa using hfld)
  refine ⟨t, State.generate_eq_ok.2 ⟨z, _, hz, hzero.words (by simpa using ho), ht⟩, ?_⟩
  rwa [setHalf_setHalf] at hframe

end

end State.HasFrame

end Sys2Proof.Machine
end


section
/-! PROOF. The stages of a PROC over a frame in RX: each stage's checks in their order, and what it does with a frame
that passes them (41_dispatch R173, 42_arp R190, 43_ipv4 R210, 44_icmp R230, 45_udp R250). -/

namespace Sys2Proof.Machine

/-! ### Walking through a list of checks -/

/-- The command is dropped by the first check that fails, or has met `Q` (60_exceptions R276). -/
structure State.Checked (s : State) (checks : List (Bool × OutcomeCode)) (Q : State → Prop) (t : State) : Prop where
  result : match firstFailing checks with
    | some code => s.Dropped t code
    | none => Q t

section
variable {s t : State} {b : Bool} {c : Prop} [Decidable c] {code : OutcomeCode}
  {rest : List (Bool × OutcomeCode)} {Q : State → Prop}

theorem State.checked_nil : s.Checked [] Q t ↔ Q t := ⟨fun h => h.result, fun h => ⟨h⟩⟩

theorem State.checked_cons_true (hb : b = true) : s.Checked ((b, code) :: rest) Q t ↔ s.Dropped t code := by
  subst hb
  exact ⟨fun h => h.result, fun h => ⟨h⟩⟩

theorem State.checked_cons_false (hb : b = false) : s.Checked ((b, code) :: rest) Q t ↔ s.Checked rest Q t := by
  subst hb
  exact ⟨fun h => ⟨h.result⟩, fun h => ⟨h.result⟩⟩

theorem State.Checked.fails (hc : c) (h : s.Dropped t code) : s.Checked ((decide c, code) :: rest) Q t :=
  (State.checked_cons_true (decide_eq_true hc)).2 h

theorem State.Checked.passes (hc : ¬c) (h : s.Checked rest Q t) : s.Checked ((decide c, code) :: rest) Q t :=
  (State.checked_cons_false (decide_eq_false hc)).2 h

theorem State.Checked.dropped (h : s.Checked ((decide c, code) :: rest) Q t) (hc : c) : s.Dropped t code :=
  (State.checked_cons_true (decide_eq_true hc)).1 h

theorem State.Checked.later (h : s.Checked ((decide c, code) :: rest) Q t) (hc : ¬c) : s.Checked rest Q t :=
  (State.checked_cons_false (decide_eq_false hc)).1 h

theorem State.Checked.met (h : s.Checked [] Q t) : Q t := State.checked_nil.1 h

end

theorem State.dropped_of_drop {s u : State} {code : OutcomeCode} (hu : u = s ∨ u = s.accRelease) :
    s.Dropped (u.drop code) code :=
  State.dropped_of_finish (hu.imp (congrArg (State.finish · code)) (congrArg (State.finish · code)))

/-- The operation answers, and what it answers meets `P`. -/
def Reaches {α : Type} (x : Except Fault α) (P : α → Prop) : Prop := ∃ a, x = .ok a ∧ P a

section
variable {α β : Type} {P : α → Prop} {s t u : State}

theorem Reaches.ok {a : α} (h : P a) : Reaches (.ok a) P := ⟨a, rfl, h⟩

theorem Reaches.bind {x : Except Fault β} {b : β} {f : β → Except Fault α} (hx : x = .ok b)
    (h : Reaches (f b) P) : Reaches (x >>= f) P := by
  rwa [hx, ok_bind]

/-- What a meaning's chain reaches is the instruction's next state. -/
theorem Reaches.next {x : Except Fault State} {P : State → Prop} (h : Reaches x P) :
    ∃ t, settle x = .next t ∧ P t := by
  obtain ⟨t, rfl, ht⟩ := h
  exact ⟨t, rfl, ht⟩

/-- One check of a stage is the first of its list. -/
theorem Reaches.check {c : Prop} [Decidable c] {code : OutcomeCode} {rest : List (Bool × OutcomeCode)}
    {x : Except Fault State} {Q : State → Prop} (hu : u = s ∨ u = s.accRelease)
    (h : ¬c → Reaches x (s.Checked rest Q)) :
    Reaches (if c then .ok (u.drop code) else x) (s.Checked ((decide c, code) :: rest) Q) := by
  by_cases hc : c
  · rw [if_pos hc]
    exact .ok (.fails hc (State.dropped_of_drop hu))
  · rw [if_neg hc]
    obtain ⟨t, ht, hQ⟩ := h hc
    exact ⟨t, ht, .passes hc hQ⟩

/-- A check by a Boolean of the frame, made after a checksum computation. -/
theorem Reaches.checkSum {pass : Bool} {code : OutcomeCode} {rest : List (Bool × OutcomeCode)}
    {x : Except Fault State} {Q : State → Prop} (h : pass = true → Reaches x (s.Checked rest Q)) :
    Reaches (if (pass, s.accRelease).1 = false then .ok ((pass, s.accRelease).2.drop code) else x)
      (s.Checked ((!pass, code) :: rest) Q) := by
  cases pass with
  | false => exact .ok ((State.checked_cons_true rfl).2 (State.dropped_of_drop (.inr rfl)))
  | true =>
    obtain ⟨t, ht, hQ⟩ := h rfl
    exact ⟨t, ht, (State.checked_cons_false rfl).2 hQ⟩

theorem State.entered_enter (g : Format) (hu : u = s ∨ u = s.accRelease) : s.Entered (u.enter g) g := by
  rcases hu with rfl | rfl <;>
    exact ⟨rfl, rfl, rfl, rfl, rfl, State.sameBytes_of_buffers rfl rfl rfl, rfl, rfl⟩

/-- The transmission of a reply that is built in the buffers. -/
theorem State.WroteBuffers.transmitted {code : OutcomeCode} {len : Half} (h : s.WroteBuffers u) :
    s.Transmitted ((u.emitTransmit len).finish code) code len :=
  ⟨⟨rfl, rfl, rfl, by simp [h.status], by simp [h.status]⟩, by simp [h.regs], by simp [h.ports], h.cfg, h.env⟩

end

/-! ### PROC -/

/-- 41_dispatch R174-R176. -/
theorem execProc_checked {s : State} {f : List Byte}
    (hframe : 14 ≤ s.lat.frameLen.toNat → s.lat.frameLen.toNat ≤ s.cfg.rxBufBytes →
      s.HasFrame f ∧ 14 ≤ f.length) :
    ∃ t, execProc s = .next t ∧ s.Checked
      [(decide (s.lat.frameLen.toNat < 14 ∨ s.cfg.rxBufBytes < s.lat.frameLen.toNat), .dropFrameLen),
        (decide (halfAt f 12 ≠ 0x0800 ∧ halfAt f 12 ≠ 0x0806), .dropEthertype),
        (decide (slice f 0 6 = s.cfg.deviceMac.bytes ∧ halfAt f 12 ≠ 0x0800), .dropClass),
        (decide (slice f 0 6 ≠ s.cfg.deviceMac.bytes ∧ slice f 0 6 = List.replicate 6 0xFF
          ∧ halfAt f 12 ≠ 0x0806), .dropClass),
        (decide (slice f 0 6 ≠ s.cfg.deviceMac.bytes ∧ slice f 0 6 ≠ List.replicate 6 0xFF), .dropNotOurs)]
      (s.Entered · .ethClass) t := by
  refine Reaches.next (.check (.inl rfl) fun hlen => ?_)
  obtain ⟨hf, hlong⟩ := hframe (by omega) (by omega)
  refine .bind (hf.etherType hlong) (.check (.inl rfl) fun _ => .bind (hf.dstMac (by omega)) ?_)
  have henter : s.Checked [] (s.Entered · .ethClass) (s.enter .ethClass) :=
    State.checked_nil.2 (State.entered_enter _ (.inl rfl))
  have hdrop : s.Dropped (s.drop .dropClass) .dropClass := State.dropped_of_drop (.inl rfl)
  by_cases hmac : slice f 0 6 = s.cfg.deviceMac.bytes
  · rw [if_pos hmac]
    by_cases het : halfAt f 12 = etherIpv4
    · rw [if_pos het]
      exact .ok (.passes (fun h => h.2 het) (.passes (fun h => h.1 hmac) (.passes (fun h => h.1 hmac) henter)))
    · rw [if_neg het]
      exact .ok (.fails ⟨hmac, het⟩ hdrop)
  · rw [if_neg hmac]
    by_cases hbroad : slice f 0 6 = broadcastMac
    · rw [if_pos hbroad]
      by_cases het : halfAt f 12 = etherArp
      · rw [if_pos het]
        exact .ok (.passes (fun h => hmac h.1) (.passes (fun h => h.2.2 het) (.passes (fun h => h.2 hbroad) henter)))
      · rw [if_neg het]
        exact .ok (.passes (fun h => hmac h.1) (.fails ⟨hmac, hbroad, het⟩ hdrop))
    · rw [if_neg hbroad]
      refine .ok (.passes (fun h => hmac h.1) (.passes (fun h => hbroad h.2.1) (.fails ⟨hmac, hbroad⟩ ?_)))
      exact State.dropped_of_drop (.inl rfl)

/-- Settles O13: the frame of 14 bytes is all `execProc_checked` asks for. -/
theorem procClassifiesFrame : Obligations.ProcClassifiesFrame := by
  unfold Obligations.ProcClassifiesFrame
  intro s f hframe
  obtain ⟨t, ht, hchecked⟩ := execProc_checked fun hmin hmax =>
    ⟨State.hasFrame_of_memRead (hframe hmin hmax), (State.memRead_length (hframe hmin hmax)).ge⟩
  exact ⟨t, ht, hchecked.result⟩

/-! ### IPV4_UNICAST -/

/-- 43_ipv4 R211-R217. -/
theorem execIpv4Unicast_checked {s : State} {f : List Byte}
    (hframe : 34 ≤ s.lat.frameLen.toNat → s.memRead .rx 0 s.lat.frameLen.toNat = .ok f) :
    ∃ t, execIpv4Unicast s = .next t ∧ s.Checked
      [(decide (s.lat.frameLen.toNat < 34), .dropIpLen),
        (decide (halfAt f 20 &&& 0x3FFF ≠ 0), .dropIpFrag),
        (decide (frameIhl f < 5 ∨ s.lat.frameLen.toNat < 14 + 4 * frameIhl f), .dropIpIhl),
        (!verifies f 14 (4 * frameIhl f) 24, .dropIpCsum),
        (decide (byteAt f 23 ≠ 1 ∧ byteAt f 23 ≠ 17), .dropIpProto)]
      (s.Entered · .ipProto) t := by
  refine Reaches.next (.check (.inl rfl) fun hmin => ?_)
  have hread := hframe (by omega)
  have hf := State.hasFrame_of_memRead hread
  have hlen := State.memRead_length hread
  refine .bind (hf.be16 (by omega)) (.check (.inl rfl) fun _ => ?_)
  refine .bind (hf.ihl (by omega)) (.check (.inl rfl) fun hihl => ?_)
  simp only [payloadOff] at hihl
  have hheader : 2 * (2 * frameIhl f) + false.toNat = 4 * frameIhl f := by simp; omega
  have hverify := hf.verify (o := 14) (n := 2 * frameIhl f) (odd := false) (fld := 24) (by omega) (by omega)
  rw [hheader] at hverify
  refine .bind hverify (.checkSum fun _ => .bind (hf.accRelease.readByte (by omega)) ?_)
  by_cases hproto : byteAt f 23 = protoIcmp ∨ byteAt f 23 = protoUdp
  · rw [if_pos hproto]
    exact .ok (.passes (fun h => hproto.elim h.1 h.2) (State.checked_nil.2 (State.entered_enter _ (.inr rfl))))
  · rw [if_neg hproto]
    exact .ok (.fails (not_or.1 hproto) (State.dropped_of_drop (.inr rfl)))

/-! ### ARP_REQ -/

/-- The command has turned the frame `f` into the reply `g` and transmitted it; the bytes past the frame and all of
TX are as before (42_arp R197-R199, 44_icmp R234-R239). -/
structure State.Replied (s t : State) (f g : List Byte) (code : OutcomeCode) (len : Half) : Prop where
  transmitted : s.Transmitted t code len
  frame : t.HasFrame g
  past : ∀ o, f.length ≤ o → t.readByte .rx o = s.readByte .rx o
  tx : ∀ o, t.readByte .tx o = s.readByte .tx o

theorem State.replied_of_built {s u : State} {f g : List Byte} {p : Nat → Prop} {code : OutcomeCode} {len : Half}
    (hwrote : s.WroteBuffers u) (hchanged : s.ChangedOnly u .rx p) (hp : ∀ o, p o → o < f.length)
    (hg : u.HasFrame g) : s.Replied ((u.emitTransmit len).finish code) f g code len := by
  have hsame : u.SameBytes ((u.emitTransmit len).finish code) := State.sameBytes_of_buffers rfl rfl rfl
  refine ⟨hwrote.transmitted, hg.congr (hsame .rx), fun o ho => (hsame .rx o).trans (hchanged .rx o (.inr fun h => ?_)),
    fun o => (hsame .tx o).trans (hchanged .tx o (.inl (by decide)))⟩
  exact absurd (hp o h) (by omega)

section
variable {s : State} {f : List Byte} (h : s.HasFrame f)
include h

/-- 42_arp R197. -/
theorem State.HasFrame.arpBuildReply (hlen : 42 ≤ f.length) :
    ∃ t, s.arpBuildReply = .ok t ∧ t.HasFrame (arpReplyFrame s.cfg.deviceMac.bytes f) := by
  have hsrc := h.memRead (o := 6) (n := 6) (by omega)
  have hsha := h.memRead (o := 22) (n := 6) (by omega)
  have hspa := h.memRead (o := 28) (n := 4) (by omega)
  have htpa := h.memRead (o := 38) (n := 4) (by omega)
  have lsrc : (slice f 6 6).length = 6 := slice_length (by omega)
  have lsha : (slice f 22 6).length = 6 := slice_length (by omega)
  have lspa : (slice f 28 4).length = 4 := slice_length (by omega)
  have ltpa : (slice f 38 4).length = 4 := slice_length (by omega)
  have lmac (m : Mac) : m.bytes.length = 6 := rfl
  obtain ⟨s1, w1, h1, c1⟩ := h.memWrite (o := 0) (bs := slice f 6 6) (by omega)
  obtain ⟨s2, w2, h2, c2⟩ := h1.memWrite (o := 6) (bs := s1.cfg.deviceMac.bytes) (by simp [lmac]; omega)
  obtain ⟨s3, w3, h3, c3⟩ := h2.put16 (o := 20) arpReply (by simp; omega)
  obtain ⟨s4, w4, h4, c4⟩ := h3.memWrite (o := 32) (bs := slice f 22 6) (by simp; omega)
  obtain ⟨s5, w5, h5, c5⟩ := h4.memWrite (o := 38) (bs := slice f 28 4) (by simp; omega)
  obtain ⟨s6, w6, h6, c6⟩ := h5.memWrite (o := 28) (bs := slice f 38 4) (by simp; omega)
  obtain ⟨s7, w7, h7, -⟩ := h6.memWrite (o := 22) (bs := s6.cfg.deviceMac.bytes) (by simp [lmac]; omega)
  refine ⟨s7, by simp only [State.arpBuildReply, hsrc, hsha, hspa, htpa, w1, w2, w3, w4, w5, w6, w7, ok_bind], ?_⟩
  rw [← arpWrites_eq (lmac _) hlen]
  rwa [c6, c5, c4, c3, c2, c1] at h7

end

/-- 42_arp R190-R199. -/
theorem execArpReq_checked {s : State} {f : List Byte}
    (hframe : 42 ≤ s.lat.frameLen.toNat → s.HasFrame f ∧ 42 ≤ f.length) :
    ∃ t, execArpReq s = .next t ∧ s.Checked
      [(decide (s.lat.frameLen.toNat < 42), .dropArpLen),
        (decide (halfAt f 14 ≠ 0x0001), .dropArpHtype),
        (decide (halfAt f 16 ≠ 0x0800), .dropArpPtype),
        (decide (halfAt f 20 ≠ 0x0001), .dropArpOper),
        (decide (s.lat.devIp = 0x00000000), .dropArpNoIp),
        (decide (wordAt f 38 ≠ s.lat.devIp), .dropArpTarget)]
      (s.Replied · f (arpReplyFrame s.cfg.deviceMac.bytes f) .arpReplyTx 42) t := by
  refine Reaches.next (.check (.inl rfl) fun hmin => ?_)
  obtain ⟨hf, hlen⟩ := hframe (by omega)
  refine .bind (hf.be16 (by omega)) (.check (.inl rfl) fun _ => ?_)
  refine .bind (hf.be16 (by omega)) (.check (.inl rfl) fun _ => ?_)
  refine .bind (hf.be16 (by omega)) (.check (.inl rfl) fun _ => .check (.inl rfl) fun _ => ?_)
  refine .bind (hf.be32 (by omega)) (.check (.inl rfl) fun _ => ?_)
  obtain ⟨u, hu, hreply⟩ := hf.arpBuildReply hlen
  exact .bind hu (.ok (State.checked_nil.2 (State.replied_of_built (.arpBuildReply hu)
    (State.arpBuildReply_changedOnly hu) (by omega) hreply)))

/-! ### ICMP and ICMP_ECHO_REQ -/

/-- 44_icmp R231, R232. -/
theorem execIcmp_checked {s : State} {f : List Byte} (hmin : 34 ≤ s.lat.frameLen.toNat)
    (hframe : s.memRead .rx 0 s.lat.frameLen.toNat = .ok f) :
    ∃ t, execIcmp s = .next t ∧ s.Checked
      [(decide (frameTotalLen f < 4 * frameIhl f + 8 ∨ s.lat.frameLen.toNat < 14 + frameTotalLen f), .dropIcmpLen),
        (decide (byteAt f (14 + 4 * frameIhl f) ≠ 8), .dropIcmpType)]
      (s.Entered · .icmpType) t := by
  have hf := State.hasFrame_of_memRead hframe
  have hlen := State.memRead_length hframe
  refine Reaches.next (.bind (hf.ihl (by omega)) (.bind (hf.totalLen (by omega)) (.check (.inl rfl) fun hmsg => ?_)))
  refine .bind (hf.readByte (o := 14 + 4 * frameIhl f) (by omega)) (.check (.inl rfl) fun _ => ?_)
  exact .ok (State.checked_nil.2 (State.entered_enter _ (.inl rfl)))

section
variable {s : State} {f : List Byte} (h : s.HasFrame f)
include h

/-- The reads and writes that exchange two fields of the frame. -/
theorem State.HasFrame.exchange {o p n : Nat} (ho : o + n ≤ f.length) (hp : p + n ≤ f.length) :
    ∃ t, (s.memRead .rx o n >>= fun a => s.memRead .rx p n >>= fun b => s.memWrite .rx o b >>= fun u =>
        u.memWrite .rx p a) = .ok t ∧ t.HasFrame (Machine.exchange f o p n) := by
  have lo : (slice f o n).length = n := slice_length ho
  have lp : (slice f p n).length = n := slice_length hp
  obtain ⟨u, w1, h1, -⟩ := h.memWrite (o := o) (bs := slice f p n) (by omega)
  obtain ⟨t, w2, h2, -⟩ := h1.memWrite (o := p) (bs := slice f o n) (by simp; omega)
  exact ⟨t, by simp only [h.memRead ho, h.memRead hp, w1, w2, ok_bind], h2⟩

/-- 44_icmp R234-R238. -/
theorem State.HasFrame.icmpBuildReply {ilen : Nat} (hihl : 5 ≤ frameIhl f) (hmin : 8 ≤ ilen)
    (hmsg : framePayload f + ilen ≤ f.length) :
    ∃ t, s.icmpBuildReply (frameIhl f) ilen = .ok t
      ∧ t.HasFrame (regenerated (regenerated (echoSwapped f) 14 (4 * frameIhl f) 24) (framePayload f) ilen
          (framePayload f + 2)) := by
  have hp : framePayload f = 14 + 4 * frameIhl f := rfl
  have hheader : 2 * (2 * frameIhl f) + false.toNat = 4 * frameIhl f := by simp; omega
  have hlen := two_mul_half_add_isOdd ilen
  obtain ⟨s1, w1, h1, -⟩ := h.writeByte icmpEchoReply (o := framePayload f) (by omega)
  obtain ⟨s2, w2, h2⟩ := h1.exchange (o := 0) (p := 6) (n := 6) (by simp; omega) (by simp; omega)
  obtain ⟨s3, w3, h3⟩ := h2.exchange (o := 26) (p := 30) (n := 4) (by simp; omega) (by simp; omega)
  have hswapped : Machine.exchange (Machine.exchange (f.set (framePayload f) icmpEchoReply) 0 6 6) 26 30 4
      = echoSwapped f := exchange_eq_echoSwapped (by omega) hihl
  have lswapped : (echoSwapped f).length = f.length := by simp [← hswapped]
  rw [hswapped] at h3
  obtain ⟨s4, w4, h4⟩ := h3.generate (o := 14) (n := 2 * frameIhl f) (odd := false) (fld := 24) (by omega) (by omega)
  obtain ⟨s5, w5, h5⟩ := h4.generate (o := framePayload f) (n := ilen / 2) (odd := isOdd ilen)
    (fld := framePayload f + 2) (by simp; omega) (by simp; omega)
  have w2' : s1.swapMacs = .ok s2 := w2
  have w3' : s2.swapIps = .ok s3 := w3
  refine ⟨s5, ?_, by rwa [hheader, hlen] at h5⟩
  rw [State.icmpBuildReply, show payloadOff (frameIhl f) = framePayload f from rfl, w1, ok_bind, w2', ok_bind, w3',
    ok_bind, w4, ok_bind, w5]

end

/-- 44_icmp R233-R239. -/
theorem execIcmpEchoReq_checked {s : State} {f : List Byte} (hframe : s.memRead .rx 0 s.lat.frameLen.toNat = .ok f)
    (hihl : 5 ≤ frameIhl f) (hmin : 4 * frameIhl f + 8 ≤ frameTotalLen f)
    (hmsg : 14 + frameTotalLen f ≤ s.lat.frameLen.toNat) :
    ∃ t, execIcmpEchoReq s = .next t ∧ s.Checked
      [(!verifies f (framePayload f) (frameTotalLen f - 4 * frameIhl f) (framePayload f + 2), .dropIcmpCsum)]
      (s.Replied · f (echoReplyFrame f) .icmpReplyTx s.lat.frameLen) t := by
  have hf := State.hasFrame_of_memRead hframe
  have hlen := State.memRead_length hframe
  have hp : framePayload f = 14 + 4 * frameIhl f := rfl
  have hilen := two_mul_half_add_isOdd (frameTotalLen f - 4 * frameIhl f)
  have hverify := hf.verify (o := framePayload f) (n := (frameTotalLen f - 4 * frameIhl f) / 2)
    (odd := isOdd (frameTotalLen f - 4 * frameIhl f)) (fld := framePayload f + 2) (by omega) (by omega)
  rw [hilen] at hverify
  refine Reaches.next (.bind (hf.ihl (by omega)) (.bind (hf.totalLen (by omega)) ?_))
  refine .bind hverify (.checkSum fun _ => ?_)
  obtain ⟨u, hu, hreply⟩ := hf.accRelease.icmpBuildReply (ilen := frameTotalLen f - 4 * frameIhl f) hihl (by omega)
    (by omega)
  have hwrote := (State.WroteBuffers.accRelease s).trans (.icmpBuildReply hu)
  have hchanged := State.ChangedOnly.accRelease.trans (State.icmpBuildReply_changedOnly hu)
  refine .bind hu (.ok (State.checked_nil.2 ?_))
  rw [hwrote.lat]
  exact State.replied_of_built hwrote hchanged (fun o ho => by simp only [payloadOff] at ho; omega) hreply

/-! ### UDP -/

/-- A block write right after the bytes written so far, inside TX. -/
theorem State.withTx_memWrite_ok {s : State} {xs ys : List Byte} {o : Nat} (ho : xs.length = o)
    (hsize : o + ys.length ≤ s.size .tx) : (s.withTx xs).memWrite .tx o ys = .ok (s.withTx (xs ++ ys)) := by
  have hok := State.memWrite_ok (s := s.withTx xs) (b := .tx) (o := o) (bs := ys) (by simpa [State.withTx] using hsize)
  exact hok.trans (congrArg _ (State.withTx_memWrite ho hok))

theorem State.withTx_writeByte_ok {s : State} {xs : List Byte} {o : Nat} (v : Byte) (ho : xs.length = o)
    (hsize : o < s.size .tx) : (s.withTx xs).writeByte .tx o v = .ok (s.withTx (xs ++ [v])) := by
  have hok := State.withTx_memWrite_ok (ys := [v]) ho hsize
  obtain ⟨u, hu, hok⟩ := bind_eq_ok.1 hok
  exact hu.trans hok

/-- 45_udp R252: the writes of the pseudo-header are one, of 20 bytes. -/
theorem State.buildPseudoHeader_eq {s : State} {p : Nat} {len : Half} {src dst ports : List Byte}
    (hsize : 20 ≤ s.size .tx) (hsrc : s.memRead .rx 26 4 = .ok src) (hdst : s.memRead .rx 30 4 = .ok dst)
    (hports : s.memRead .rx p 4 = .ok ports) :
    s.buildPseudoHeader p len =
      .ok (s.withTx (src ++ dst ++ [0x00, 17] ++ halfBytes len ++ ports ++ halfBytes len ++ [0x00, 0x00])) := by
  have lsrc := State.memRead_length hsrc
  have ldst := State.memRead_length hdst
  have lports := State.memRead_length hports
  have hfirst : s.memWrite .tx 0 src = .ok (s.withTx src) := State.memWrite_ok (by omega)
  simp only [State.buildPseudoHeader, State.put16, hsrc, hfirst, ok_bind, State.withTx_memRead_rx, hdst]
  rw [State.withTx_memWrite_ok lsrc (by omega), ok_bind,
    State.withTx_writeByte_ok _ (by simp; omega) (by omega), ok_bind,
    State.withTx_writeByte_ok _ (by simp; omega) (by omega), ok_bind,
    State.withTx_memWrite_ok (by simp; omega) (by simp; omega), ok_bind, State.withTx_memRead_rx, hports, ok_bind,
    State.withTx_memWrite_ok (by simp; omega) (by omega), ok_bind,
    State.withTx_memWrite_ok (by simp; omega) (by simp; omega), ok_bind,
    State.withTx_memWrite_ok (by simp; omega) (by simp; omega)]
  simp [protoUdp, halfBytes]

/-- UDP has left the pseudo-header of the frame `f` in TX bytes 0..19 and nothing else (45_udp R252). -/
structure State.BuiltPseudoHeader (s t : State) (f : List Byte) : Prop where
  phase : t.phase = .busy .udpCsum
  status : t.status = s.status
  lat : t.lat = s.lat
  regs : t.regs = s.regs
  ports : t.ports = s.ports
  world : s.SameWorld t
  header : t.memRead .tx 0 20 = .ok (pseudoHeader f)
  tx : ∀ o, 20 ≤ o → t.readByte .tx o = s.readByte .tx o
  rx : ∀ o, t.readByte .rx o = s.readByte .rx o

theorem State.HasFrame.buildPseudoHeader {s : State} {f : List Byte} (h : s.HasFrame f) (hsize : 20 ≤ s.size .tx)
    (hlen : 34 ≤ f.length) (hports : framePayload f + 4 ≤ f.length) :
    ∃ u, s.buildPseudoHeader (payloadOff (frameIhl f)) (frameUdpLen f) = .ok u
      ∧ s.BuiltPseudoHeader (u.enter .udpCsum) f := by
  have hbuild := State.buildPseudoHeader_eq (len := frameUdpLen f) hsize (h.memRead (o := 26) (n := 4) (by omega))
    (h.memRead (o := 30) (n := 4) (by omega)) (h.memRead (o := framePayload f) (n := 4) (by omega))
  have hheader : slice f 26 4 ++ slice f 30 4 ++ [0x00, 17] ++ halfBytes (frameUdpLen f) ++ slice f (framePayload f) 4
      ++ halfBytes (frameUdpLen f) ++ [0x00, 0x00] = pseudoHeader f := by
    rw [slice_append_slice f 26 4 4]
    rfl
  rw [hheader] at hbuild
  have hwrote := State.WroteBuffers.buildPseudoHeader hbuild
  have hchanged := State.buildPseudoHeader_changedOnly hbuild
  have l20 : (pseudoHeader f).length = 20 := by
    simp [pseudoHeader, slice_length (f := f) (o := 26) (n := 8) (by omega), slice_length hports]
  have hback := State.memRead_putBytes s (b := .tx) (o := 0) (bs := pseudoHeader f) (by omega)
  rw [l20] at hback
  exact ⟨_, hbuild, rfl, hwrote.status, hwrote.lat, hwrote.regs, hwrote.ports, ⟨hwrote.cfg, hwrote.env⟩,
    hback, fun o ho => hchanged .tx o (.inr (by omega)), fun o => hchanged .rx o (.inl (by decide))⟩

/-- 45_udp R251, R252. -/
theorem execUdp_checked {s : State} {f : List Byte} (hsize : 20 ≤ s.size .tx) (hmin : 34 ≤ s.lat.frameLen.toNat)
    (hframe : s.memRead .rx 0 s.lat.frameLen.toNat = .ok f) :
    ∃ t, execUdp s = .next t ∧ s.Checked
      [(decide (frameTotalLen f < 4 * frameIhl f + 8 ∨ s.lat.frameLen.toNat < 14 + frameTotalLen f), .dropUdpLen),
        (decide ((frameUdpLen f).toNat < 8 ∨ frameTotalLen f - 4 * frameIhl f < (frameUdpLen f).toNat), .dropUdpLen)]
      (s.BuiltPseudoHeader · f) t := by
  have hf := State.hasFrame_of_memRead hframe
  have hlen := State.memRead_length hframe
  have hp : framePayload f = 14 + 4 * frameIhl f := rfl
  refine Reaches.next (.bind (hf.ihl (by omega)) (.bind (hf.totalLen (by omega)) (.check (.inl rfl) fun _ => ?_)))
  refine .bind (hf.udpLength (by omega)) (.check (.inl rfl) fun _ => ?_)
  obtain ⟨u, hu, hbuilt⟩ := hf.buildPseudoHeader hsize (by omega) (by omega)
  exact .bind hu (.ok (State.checked_nil.2 hbuilt))

/-! ### The UDP checksum rows -/

theorem State.handedOff_of_handOff {s u : State} {p : Nat} {len : Half} (hu : u = s ∨ u = s.accRelease) :
    s.HandedOff (u.handOff p len) (BitVec.ofNat 16 p) len := by
  rcases hu with rfl | rfl <;>
    exact ⟨⟨rfl, rfl, rfl, rfl, rfl⟩, rfl, rfl, State.sameBytes_of_buffers rfl rfl rfl, rfl, rfl⟩

section
variable {s : State} {ihl : Nat} {len : Half} (hihl : s.ihl = .ok ihl) (hlen : s.udpLength (payloadOff ihl) = .ok len)
include hihl hlen

/-- 45_udp R253, R255. -/
theorem execUdpCsumNone_handsOff :
    ∃ t, execUdpCsumNone s = .next t ∧ s.HandedOff t (BitVec.ofNat 16 (payloadOff ihl)) len ∧ t.acc = s.acc :=
  Reaches.next (.bind hihl (.bind hlen (.ok ⟨State.handedOff_of_handOff (.inl rfl), rfl⟩)))

/-- 45_udp R254, R255: the checksum over the pseudo-header `ph` in TX and the payload `pay` decides. -/
theorem State.udpCompare_checked {ph pay : List Byte} (expected : Half) (hph : s.memRead .tx 0 20 = .ok ph)
    (hpay : s.memRead .rx (payloadOff ihl + 8) (len.toNat - 8) = .ok pay) :
    ∃ t, settle (s.udpCompare expected) = .next t ∧ s.Checked
      [(decide (inet (beWords ph ++ beWords pay) ≠ expected), .dropUdpCsum)]
      (s.HandedOff · (BitVec.ofNat 16 (payloadOff ihl)) len) t := by
  rw [← two_mul_half_add_isOdd (len.toNat - 8)] at hpay
  have hwords : s.udpWords (payloadOff ihl) len = .ok (beWords ph ++ beWords pay) := by
    rw [State.udpWords, State.words_of_memRead (n := 10) (odd := false) hph, ok_bind,
      State.words_of_memRead hpay, ok_bind]
  refine Reaches.next (.bind hihl (.bind hlen (.bind hwords ?_)))
  simp only [State.checksum_fst, State.checksum_snd]
  exact .check (.inr rfl) fun _ => .ok (State.checked_nil.2 (State.handedOff_of_handOff (.inr rfl)))

end

end Sys2Proof.Machine
end


section
/-! PROOF. A whole PROC is one function of the frame: each stage's checks are the branches of the verdict, and the
frame stands in RX from stage to stage (30_encoding R130). -/

namespace Sys2Proof.Machine

/-! ### Runs -/

theorem runFor_succ {s t : State} (h : step s = .next t) (n : Nat) : runFor (n + 1) s = runFor n t := by
  simp only [runFor, h]

/-- In IDLE with the outside world at rest nothing happens (60_exceptions R286). -/
theorem runFor_of_idle {s : State} (hidle : s.phase = .idle) (hs : s.env.script = []) (n : Nat) :
    runFor n s = .next s := by
  induction n with
  | zero => rfl
  | succ n ih => rw [runFor_succ ((step_of_script_nil hs).trans (State.engineStep_of_idle hidle)), ih]

/-! ### What a verdict says of the machine -/

/-- The command has ended as the verdict `v` on the frame `f` says, and has left everything else as it was. -/
structure State.Fulfils (s t : State) (f : List Byte) (v : Verdict) : Prop where
  ended : s.Ended t v.code
  world : s.SameWorld t
  kept : v.frame = f → ∀ o, t.readByte .rx o = s.readByte .rx o
  built : v.frame ≠ f → t.memRead .rx 0 f.length = .ok v.frame
  past : ∀ o, f.length ≤ o → t.readByte .rx o = s.readByte .rx o
  tx : match v.tx with
    | none => ∀ o, t.readByte .tx o = s.readByte .tx o
    | some ph => t.memRead .tx 0 20 = .ok ph ∧ ∀ o, 20 ≤ o → t.readByte .tx o = s.readByte .tx o
  event : match v.event with
    | none => t.regs = s.regs ∧ t.ports = s.ports
    | some (.transmit b len) => t.regs = { s.regs with txLen := len }
        ∧ t.ports = { s.ports with txPending := some len, events := s.ports.events ++ [.transmit b len] }
    | some (.udpAccept off len) => t.regs = { s.regs with udpOff := off, udpLen := len }
        ∧ t.ports = { s.ports with
            udpPending := some (off, len), events := s.ports.events ++ [.udpAccept off len] }

section
variable {s t u : State} {f g : List Byte} {v : Verdict} {code : OutcomeCode}

theorem State.Dropped.fulfils (h : s.Dropped t code) : s.Fulfils t f (.drop code f) :=
  ⟨h.ended, h.world, fun _ => h.bytes .rx, fun hne => absurd rfl hne, fun o _ => h.bytes .rx o, h.bytes .tx,
    h.regs, h.ports⟩

theorem State.Replied.fulfils {len : Half} (hf : s.HasFrame f) (hlen : g.length = f.length)
    (h : s.Replied t f g code len) : s.Fulfils t f ⟨code, g, none, some (.transmit .rx len)⟩ where
  ended := h.transmitted.ended
  world := h.transmitted.world
  kept hg := hf.readByte_eq (hg ▸ h.frame) h.past
  built _ := hlen ▸ h.frame
  past := h.past
  tx := h.tx
  event := ⟨h.transmitted.regs, h.transmitted.ports⟩

theorem State.Ended.of_status (hstatus : u.status = s.status) (h : u.Ended t code) : s.Ended t code :=
  ⟨h.phase, h.done, h.outcome, hstatus ▸ h.errBusy, hstatus ▸ h.lastOp⟩

theorem State.SameWorld.trans (h1 : s.SameWorld u) (h2 : u.SameWorld t) : s.SameWorld t :=
  ⟨h2.1.trans h1.1, h2.2.trans h1.2⟩

/-- A stage that goes on has written nothing, so the verdict on what follows is the verdict from it on. -/
theorem State.Entered.fulfils {e : Format} (he : s.Entered u e) (h : u.Fulfils t f v) : s.Fulfils t f v := by
  obtain ⟨ended, world, kept, built, past, tx, event⟩ := h
  rw [he.regs, he.ports] at event
  simp only [he.bytes .rx, he.bytes .tx] at kept past tx
  exact ⟨ended.of_status he.status, State.SameWorld.trans he.world world, kept, built, past, tx, event⟩

theorem State.HandedOff.fulfils {off len : Half} (h : s.HandedOff t off len) :
    s.Fulfils t f ⟨.udpHandoff, f, none, some (.udpAccept off len)⟩ :=
  ⟨h.ended, h.world, fun _ => h.bytes .rx, fun hne => absurd rfl hne, fun o _ => h.bytes .rx o, h.bytes .tx,
    h.regs, h.ports⟩

/-- After UDP the pseudo-header stays in TX, and the verdict on what follows is the verdict from there on. -/
theorem State.BuiltPseudoHeader.fulfils {event : Option PortEvent} (hb : s.BuiltPseudoHeader u f)
    (h : u.Fulfils t f ⟨code, f, none, event⟩) : s.Fulfils t f ⟨code, f, some (pseudoHeader f), event⟩ where
  ended := h.ended.of_status hb.status
  world := hb.world.trans h.world
  kept _ o := (h.kept rfl o).trans (hb.rx o)
  built hne := absurd rfl hne
  past o ho := (h.past o ho).trans (hb.rx o)
  tx := ⟨(State.memRead_congr_of_readByte h.tx 0 20).trans hb.header, fun o ho => (h.tx o).trans (hb.tx o ho)⟩
  event := by simpa only [hb.regs, hb.ports] using h.event

/-! ### The run of a verdict -/

/-- `n` steps end the command as the verdict `v` on the frame `f` says. -/
def State.Runs (s : State) (n : Nat) (f : List Byte) (v : Verdict) : Prop :=
  ∃ t, runFor n s = .next t ∧ s.Fulfils t f v

/-- The step that ends the command. -/
theorem State.Runs.last (hs : s.env.script = []) (hstep : step s = .next t) (h : s.Fulfils t f v) (n : Nat) :
    s.Runs (n + 1) f v :=
  ⟨t, (runFor_succ hstep n).trans (runFor_of_idle h.ended.phase (by rw [h.world.2, hs]) n), h⟩

/-- The step of a stage that goes on. -/
theorem State.Runs.entered {e : Format} {n : Nat} (hstep : step s = .next u) (he : s.Entered u e) (h : u.Runs n f v) :
    s.Runs (n + 1) f v := by
  obtain ⟨t, ht, hv⟩ := h
  exact ⟨t, (runFor_succ hstep n).trans ht, he.fulfils hv⟩

theorem State.Runs.builtPseudoHeader {event : Option PortEvent} {n : Nat} (hstep : step s = .next u)
    (hb : s.BuiltPseudoHeader u f) (h : u.Runs n f ⟨code, f, none, event⟩) :
    s.Runs (n + 1) f ⟨code, f, some (pseudoHeader f), event⟩ := by
  obtain ⟨t, ht, hv⟩ := h
  exact ⟨t, (runFor_succ hstep n).trans ht, hb.fulfils hv⟩

/-- A check of a stage is a branch of the verdict. -/
theorem State.Runs.check {c : Prop} [Decidable c] {b : Bool} {rest : List (Bool × OutcomeCode)} {Q : State → Prop}
    {n : Nat} (hs : s.env.script = []) (hstep : step s = .next t) (hb : b = true ↔ c)
    (h : s.Checked ((b, code) :: rest) Q t) (hrest : ¬c → s.Checked rest Q t → s.Runs (n + 1) f v) :
    s.Runs (n + 1) f (if c then .drop code f else v) := by
  by_cases hc : c
  · rw [if_pos hc]
    exact .last hs hstep ((State.checked_cons_true (hb.2 hc)).1 h).fulfils n
  · rw [if_neg hc]
    exact hrest hc ((State.checked_cons_false (Bool.eq_false_iff.2 (mt hb.1 hc))).1 h)

end

/-- Which of the two rows compares, and with what (45_udp R254). -/
theorem exec_udpCsum_compares {stored : Half} (h0 : stored ≠ 0x0000) (s : State) :
    ∃ i : Instr, i.wf = true ∧ encode i = .udpCsum stored ∧ exec i s = settle (s.udpCompare (udpRemap stored)) := by
  by_cases h1 : stored = 0xFFFF
  · subst h1
    exact ⟨.udpCsumFfff, rfl, rfl, rfl⟩
  · refine ⟨.udpCsum stored, by simpa [Instr.wf] using ⟨h0, h1⟩, rfl, ?_⟩
    rw [udpRemap, if_neg h1]
    rfl

/-! ### A PROC at one of its wire encodings -/

/-- The engine is at the encoding `e` of a PROC of the frame `f`, with the outside world at rest. -/
structure State.Processing (s : State) (e : Format) (f : List Byte) : Prop where
  params : s.cfg.wf = true
  phase : s.phase = .busy e
  script : s.env.script = []
  frame : s.memRead .rx 0 s.lat.frameLen.toNat = .ok f

namespace State.Processing

variable {s t u : State} {e g : Format} {f : List Byte}

theorem hasFrame (h : s.Processing e f) : s.HasFrame f := State.hasFrame_of_memRead h.frame

theorem length (h : s.Processing e f) : s.lat.frameLen.toNat = f.length := (State.memRead_length h.frame).symm

theorem entered (h : s.Processing e f) (he : s.Entered u g) : u.Processing g f where
  params := by rw [he.world.1, h.params]
  phase := he.phase
  script := by rw [he.world.2, h.script]
  frame := by rw [he.lat, State.memRead_congr_of_readByte (he.bytes .rx), h.frame]

theorem builtPseudoHeader (h : s.Processing e f) (hb : s.BuiltPseudoHeader u f) : u.Processing .udpCsum f where
  params := by rw [hb.world.1, h.params]
  phase := hb.phase
  script := by rw [hb.world.2, h.script]
  frame := by rw [hb.lat, State.memRead_congr_of_readByte hb.rx, h.frame]

/-- The next step runs the instruction whose code word the encoding's field holds. -/
theorem step (h : s.Processing e f) {i : Instr} (hi : i.wf = true) (hf : s.fetch e = .ok (encode i))
    (hx : exec i s = .next t) : Machine.step s = .next t :=
  (step_of_script_nil h.script).trans ((State.engineStep_of_instr h.phase hf (decode_encode hi)).trans hx)

/-- 44_icmp R233-R239. -/
theorem runs_echo (h : s.Processing .icmpType f) (htype : byteAt f (framePayload f) = 8) (hihl : 5 ≤ frameIhl f)
    (hmin : 4 * frameIhl f + 8 ≤ frameTotalLen f) (hmsg : 14 + frameTotalLen f ≤ f.length) (n : Nat) :
    s.Runs (n + 1) f
      (if verifies f (framePayload f) (frameTotalLen f - 4 * frameIhl f) (framePayload f + 2) = false then
        .drop .dropIcmpCsum f
      else ⟨.icmpReplyTx, echoReplyFrame f, none, some (.transmit .rx (BitVec.ofNat 16 f.length))⟩) := by
  have hp : framePayload f = 14 + 4 * frameIhl f := rfl
  obtain ⟨t, ht, hchecked⟩ := execIcmpEchoReq_checked h.frame hihl hmin (by rwa [h.length])
  have hfetch : s.fetch .icmpType = .ok (encode .icmpEchoReq) := by
    rw [State.fetch, h.hasFrame.ihl (by omega), ok_bind, show payloadOff (frameIhl f) = framePayload f from rfl,
      h.hasFrame.readByte (by omega), htype]
    rfl
  have hstep := h.step rfl hfetch ht
  have hlen : (echoReplyFrame f).length = f.length := echoReplyFrame_length (by omega) hihl
  refine .check h.script hstep (by simp) hchecked fun _ hreply => ?_
  rw [← h.length, BitVec.ofNat_toNat, BitVec.setWidth_eq]
  exact .last h.script hstep (hreply.met.fulfils h.hasFrame hlen) n

/-- 44_icmp R231, R232. -/
theorem runs_icmp (h : s.Processing .ipProto f) (hproto : byteAt f 23 = 1) (hlen : 34 ≤ f.length)
    (hihl : 5 ≤ frameIhl f) (n : Nat) : s.Runs (n + 2) f (icmpVerdict f) := by
  obtain ⟨t, ht, hchecked⟩ := execIcmp_checked (h.length ▸ hlen) h.frame
  have hfetch : s.fetch .ipProto = .ok (encode .icmp) := by
    rw [State.fetch, h.hasFrame.readByte (by omega), hproto]
    rfl
  have hstep := h.step rfl hfetch ht
  rw [h.length] at hchecked
  refine .check h.script hstep decide_eq_true_iff hchecked fun hmsg hchecked => ?_
  refine .check h.script hstep decide_eq_true_iff hchecked fun htype henter => ?_
  have henter := henter.met
  exact .entered hstep henter ((h.entered henter).runs_echo (not_not.1 htype) hihl (by omega) (by omega) n)

/-- 45_udp R253-R255. -/
theorem runs_udpCsum (h : s.Processing .udpCsum f) (htx : s.memRead .tx 0 20 = .ok (pseudoHeader f))
    (hlen : 15 ≤ f.length) (hmin : 8 ≤ (frameUdpLen f).toNat)
    (hdata : framePayload f + (frameUdpLen f).toNat ≤ f.length) (n : Nat) :
    s.Runs (n + 1) f
      (if frameUdpCsum f ≠ 0x0000 ∧ udpComputed f ≠ udpRemap (frameUdpCsum f) then .drop .dropUdpCsum f
      else ⟨.udpHandoff, f, none, some (.udpAccept (BitVec.ofNat 16 (framePayload f)) (frameUdpLen f))⟩) := by
  have hf := h.hasFrame
  have hihl := hf.ihl hlen
  have hudp := hf.udpLength (by omega)
  have hfetch : s.fetch .udpCsum = .ok (.udpCsum (frameUdpCsum f)) := by
    rw [State.fetch, hihl, ok_bind, show payloadOff (frameIhl f) + 6 = framePayload f + 6 from rfl, hf.be16 (by omega)]
    rfl
  by_cases h0 : frameUdpCsum f = 0x0000
  · rw [if_neg fun hc => hc.1 h0]
    obtain ⟨t, ht, hoff, -⟩ := execUdpCsumNone_handsOff hihl hudp
    rw [h0] at hfetch
    exact .last h.script (h.step (i := .udpCsumNone) rfl hfetch ht) hoff.fulfils n
  · obtain ⟨i, hwf, hcode, hexec⟩ := exec_udpCsum_compares h0 s
    have hpay : s.memRead .rx (payloadOff (frameIhl f) + 8) ((frameUdpLen f).toNat - 8)
        = .ok (slice f (framePayload f + 8) ((frameUdpLen f).toNat - 8)) :=
      hf.memRead (o := framePayload f + 8) (by omega)
    obtain ⟨t, ht, hchecked⟩ := State.udpCompare_checked hihl hudp (udpRemap (frameUdpCsum f)) htx hpay
    have hstep := h.step hwf (hcode ▸ hfetch) (hexec.trans ht)
    refine .check h.script hstep (decide_eq_true_iff.trans (and_iff_right h0).symm) hchecked fun _ hoff => ?_
    exact .last h.script hstep hoff.met.fulfils n

/-- 45_udp R250-R252. -/
theorem runs_udp (h : s.Processing .ipProto f) (hproto : byteAt f 23 = 17) (hlen : 34 ≤ f.length) (n : Nat) :
    s.Runs (n + 2) f (udpVerdict f) := by
  have hsize : 20 ≤ s.size .tx := (Params.wf_bounds h.params).2
  obtain ⟨u, hu, hchecked⟩ := execUdp_checked hsize (h.length ▸ hlen) h.frame
  have hfetch : s.fetch .ipProto = .ok (encode .udp) := by
    rw [State.fetch, h.hasFrame.readByte (by omega), hproto]
    rfl
  have hstep := h.step rfl hfetch hu
  rw [h.length] at hchecked
  refine .check h.script hstep decide_eq_true_iff hchecked fun hmsg hchecked => ?_
  refine .check h.script hstep decide_eq_true_iff hchecked fun hudp hbuilt => ?_
  have hbuilt := hbuilt.met
  have hp : framePayload f = 14 + 4 * frameIhl f := rfl
  have hrest := (h.builtPseudoHeader hbuilt).runs_udpCsum hbuilt.header (by omega) (by omega) (by omega) n
  split_ifs at hrest ⊢
  · exact .builtPseudoHeader hstep hbuilt hrest
  · exact .builtPseudoHeader hstep hbuilt hrest

/-- 43_ipv4 R210-R217. -/
theorem runs_ipv4 (h : s.Processing .ethClass f) (htype : halfAt f 12 = 0x0800) (hlen : 14 ≤ f.length) (n : Nat) :
    s.Runs (n + 3) f (ipv4Verdict f) := by
  obtain ⟨t, ht, hchecked⟩ := execIpv4Unicast_checked fun _ => h.frame
  have hfetch : s.fetch .ethClass = .ok (encode .ipv4Unicast) := by
    rw [State.fetch, h.hasFrame.etherType hlen, htype]
    rfl
  have hstep := h.step rfl hfetch ht
  rw [h.length] at hchecked
  refine .check h.script hstep decide_eq_true_iff hchecked fun hmin hchecked => ?_
  refine .check h.script hstep decide_eq_true_iff hchecked fun _ hchecked => ?_
  refine .check h.script hstep decide_eq_true_iff hchecked fun hihl hchecked => ?_
  refine .check h.script hstep (by simp) hchecked fun _ hchecked => ?_
  by_cases hicmp : byteAt f 23 = 1
  · rw [if_pos hicmp]
    have henter := (hchecked.later fun hne => hne.1 hicmp).met
    exact .entered hstep henter ((h.entered henter).runs_icmp hicmp (by omega) (by omega) n)
  · rw [if_neg hicmp]
    by_cases hudp : byteAt f 23 = 17
    · rw [if_pos hudp]
      have henter := (hchecked.later fun hne => hne.2 hudp).met
      exact .entered hstep henter ((h.entered henter).runs_udp hudp (by omega) n)
    · rw [if_neg hudp]
      exact .last h.script hstep (hchecked.dropped ⟨hicmp, hudp⟩).fulfils _

/-- 42_arp R190-R199. -/
theorem runs_arp (h : s.Processing .ethClass f) (htype : halfAt f 12 = 0x0806) (hlen : 14 ≤ f.length) (n : Nat) :
    s.Runs (n + 1) f (arpVerdict s.cfg.deviceMac.bytes s.lat.devIp f) := by
  obtain ⟨t, ht, hchecked⟩ := execArpReq_checked fun hmin => ⟨h.hasFrame, h.length ▸ hmin⟩
  have hfetch : s.fetch .ethClass = .ok (encode .arpReq) := by
    rw [State.fetch, h.hasFrame.etherType hlen, htype]
    rfl
  have hstep := h.step rfl hfetch ht
  rw [h.length] at hchecked
  refine .check h.script hstep decide_eq_true_iff hchecked fun hmin hchecked => ?_
  refine .check h.script hstep decide_eq_true_iff hchecked fun _ hchecked => ?_
  refine .check h.script hstep decide_eq_true_iff hchecked fun _ hchecked => ?_
  refine .check h.script hstep decide_eq_true_iff hchecked fun _ hchecked => ?_
  refine .check h.script hstep decide_eq_true_iff hchecked fun _ hchecked => ?_
  refine .check h.script hstep decide_eq_true_iff hchecked fun _ hreply => ?_
  have hsame : (arpReplyFrame s.cfg.deviceMac.bytes f).length = f.length := arpReplyFrame_length rfl (by omega)
  exact .last h.script hstep (hreply.met.fulfils h.hasFrame hsame) n

end State.Processing

/-! ### The whole PROC -/

/-- 41_dispatch R173-R176. -/
theorem State.runs_proc {s : State} {f : List Byte} (hparams : s.cfg.wf = true) (hphase : s.phase = .busy .c)
    (hop : s.lat.op = 0x1) (hs : s.env.script = []) (hlen : f.length = s.lat.frameLen.toNat)
    (hframe : 14 ≤ f.length → f.length ≤ s.cfg.rxBufBytes → s.memRead .rx 0 f.length = .ok f) :
    s.Runs 4 f (procVerdict s.cfg.deviceMac.bytes s.cfg.rxBufBytes s.lat.devIp f) := by
  obtain ⟨t, ht, hchecked⟩ := execProc_checked (s := s) (f := f) fun hmin hmax =>
    ⟨State.hasFrame_of_memRead (hframe (hlen ▸ hmin) (hlen ▸ hmax)), hlen ▸ hmin⟩
  have hfetch : s.fetch .c = .ok (encode .proc) := by
    rw [State.fetch, hop]
    rfl
  have hstep : step s = .next t :=
    (step_of_script_nil hs).trans ((State.engineStep_of_instr hphase hfetch (decode_encode rfl)).trans ht)
  rw [← hlen] at hchecked
  refine .check hs hstep decide_eq_true_iff hchecked fun hbound hchecked => ?_
  refine .check hs hstep decide_eq_true_iff hchecked fun htype hchecked => ?_
  have hmin : 14 ≤ f.length := by omega
  have hmem := hframe hmin (by omega)
  have hproc (henter : s.Entered t .ethClass) : t.Processing .ethClass f :=
    ⟨by rw [henter.world.1, hparams], henter.phase, by rw [henter.world.2, hs], by
      rw [henter.lat, State.memRead_congr_of_readByte (henter.bytes .rx), ← hlen, hmem]⟩
  by_cases hmac : slice f 0 6 = s.cfg.deviceMac.bytes
  · rw [if_pos hmac]
    by_cases hip : halfAt f 12 = 0x0800
    · rw [if_pos hip]
      have henter := (((hchecked.later fun h => h.2 hip).later fun h => h.1 hmac).later fun h => h.1 hmac).met
      exact .entered hstep henter ((hproc henter).runs_ipv4 hip hmin 0)
    · rw [if_neg hip]
      exact .last hs hstep (hchecked.dropped ⟨hmac, hip⟩).fulfils 3
  · rw [if_neg hmac]
    have hchecked := hchecked.later fun h => hmac h.1
    by_cases hbroad : slice f 0 6 = List.replicate 6 0xFF
    · rw [if_pos hbroad]
      by_cases harp : halfAt f 12 = 0x0806
      · rw [if_pos harp]
        have henter := ((hchecked.later fun h => h.2.2 harp).later fun h => h.2 hbroad).met
        have hrest := (hproc henter).runs_arp harp hmin 2
        rw [henter.world.1, henter.lat] at hrest
        exact .entered hstep henter hrest
      · rw [if_neg harp]
        exact .last hs hstep (hchecked.dropped ⟨hmac, hbroad, harp⟩).fulfils 3
    · rw [if_neg hbroad]
      exact .last hs hstep ((hchecked.later fun h => hbroad h.2.1).dropped ⟨hmac, hbroad⟩).fulfils 3

/-- Settles O50: `State.Fulfils` is what the statement says of the end of the run. -/
theorem procRunIsVerdict : Obligations.ProcRunIsVerdict := by
  unfold Obligations.ProcRunIsVerdict
  intro s f hparams hphase hop hs hlen hframe
  obtain ⟨t, ht, h⟩ := State.runs_proc hparams hphase hop hs hlen hframe
  exact ⟨t, ht, h.ended, h.world, h.kept, h.built, h.past, h.tx, h.event⟩

end Sys2Proof.Machine
end


section
/-! PROOF. Every command whose operands are written finishes within four engine steps (41_dispatch R171, log 6): a
PROC by the run of its verdict from the encoding it stands at, a checksum command in one step. -/

namespace Sys2Proof.Machine

theorem runFor_inv {n : Nat} {s t : State} (h : s.Inv) (hrun : runFor n s = .next t) : t.Inv := by
  induction n generalizing s with
  | zero => exact Host.Outcome.next.inj hrun ▸ h
  | succ n ih =>
    cases hstep : step s with
    | next u => exact ih (stepKeepsInvariant s u h hstep) (by rwa [runFor_succ hstep] at hrun)
    | fault e => simp [runFor, hstep] at hrun
    | refused e => simp [runFor, hstep] at hrun

/-- The running command has ended after four steps (log 6). -/
def State.Finishes (s : State) : Prop := ∃ t code, runFor 4 s = .next t ∧ s.Ended t code

/-! ### The checksum commands -/

section
variable {s : State} (hphase : s.phase = .busy .c) (hs : s.env.script = []) (hwritten : s.operandsWritten)
include hphase hs

/-- A command of one step has finished after four. -/
theorem runFor_of_last {i : Instr} {t : State} {code : OutcomeCode} (hi : i.wf = true)
    (hfetch : s.fetch .c = .ok (encode i)) (hx : exec i s = .next t) (hended : s.Ended t code)
    (hworld : s.SameWorld t) : runFor 4 s = .next t := by
  have hstep := (step_of_script_nil hs).trans ((State.engineStep_of_instr hphase hfetch (decode_encode hi)).trans hx)
  exact (runFor_succ hstep 3).trans (runFor_of_idle hended.phase (by rw [hworld.2, hs]) 3)

include hwritten

/-- 40_checksum R147, R149. -/
theorem State.csum_finishes (hop : s.lat.op = 0x2) : s.Finishes := by
  obtain ⟨-, hregion, -⟩ := hwritten
  have hfetch : s.fetch .c = .ok (encode .csum) := by
    rw [State.fetch, hop]
    rfl
  cases hin : s.inRange s.lat.a s.lat.odd with
  | false =>
    have hdropped : s.Dropped (s.finish .errRange) .errRange := State.dropped_of_finish (.inl rfl)
    exact ⟨_, _, runFor_of_last hphase hs rfl hfetch (execCsum_of_not_inRange hin) hdropped.ended hdropped.world,
      hdropped.ended⟩
  | true =>
    obtain ⟨bs, hbs⟩ := hregion hop hin
    exact ⟨_, _, runFor_of_last hphase hs rfl hfetch (execCsum_of_words hin (State.words_of_memRead hbs))
      (s.finishCsum_ended _) (s.finishCsum_frame _).2.2, s.finishCsum_ended _⟩

/-- 40_checksum R148, R149. -/
theorem State.csum2_finishes (hop : s.lat.op = 0x3) : s.Finishes := by
  obtain ⟨-, -, hregions⟩ := hwritten
  have hfetch : s.fetch .c = .ok (encode .csum2) := by
    rw [State.fetch, hop]
    rfl
  by_cases hin : s.inRange s.lat.a false = true ∧ s.inRange s.lat.b s.lat.odd = true
  · obtain ⟨⟨as, has⟩, bs, hbs⟩ := hregions hop hin.1 hin.2
    exact ⟨_, _, runFor_of_last hphase hs rfl hfetch
      (execCsum2_of_words hin.1 hin.2 (State.words_of_memRead has) (State.words_of_memRead hbs))
      (s.finishCsum_ended _) (s.finishCsum_frame _).2.2, s.finishCsum_ended _⟩
  · have hout : s.inRange s.lat.a false = false ∨ s.inRange s.lat.b s.lat.odd = false := by
      simpa using not_and_or.1 hin
    have hdropped : s.Dropped (s.finish .errRange) .errRange := State.dropped_of_finish (.inl rfl)
    exact ⟨_, _, runFor_of_last hphase hs rfl hfetch (execCsum2_of_not_inRange hout) hdropped.ended hdropped.world,
      hdropped.ended⟩

end

/-! ### PROC -/

theorem State.Runs.finishes {s : State} {f : List Byte} {v : Verdict} (h : s.Runs 4 f v) : s.Finishes := by
  obtain ⟨t, ht, hv⟩ := h
  exact ⟨t, v.code, ht, hv.ended⟩

/-- The header length the validator has checked is the frame's (43_ipv4 R213). -/
theorem State.ipHeaderOk.eq_frameIhl {s : State} {f : List Byte} {ihl : Nat} (h : s.ipHeaderOk ihl)
    (hf : s.HasFrame f) (hlen : 34 ≤ f.length) : ihl = frameIhl f ∧ 5 ≤ ihl := by
  obtain ⟨-, -, -, -, -, hihl, hfive, -⟩ := h
  exact ⟨Except.ok.inj (hihl.symm.trans (hf.ihl (by omega))), hfive⟩

/-- The total length the payload's stage has checked is the frame's (44_icmp R231, 45_udp R251). -/
theorem State.payloadOk.eq_frameTotalLen {s : State} {f : List Byte} {ihl tl : Nat} (h : s.payloadOk ihl tl)
    (hf : s.HasFrame f) (hlen : 34 ≤ f.length) : tl = frameTotalLen f :=
  Except.ok.inj (h.1.symm.trans (hf.totalLen (by omega)))

/-- What TX holds after UDP is the pseudo-header of the frame (45_udp R252). -/
theorem State.pseudoHeaderOk.header {s : State} {f : List Byte} (hf : s.HasFrame f) (hlen : 34 ≤ f.length)
    (hp : framePayload f + 4 ≤ f.length) (h : s.pseudoHeaderOk (payloadOff (frameIhl f)) (frameUdpLen f)) :
    s.memRead .tx 0 20 = .ok (pseudoHeader f) := by
  obtain ⟨src, dst, ports, hsrc, hdst, hports, htx⟩ := h
  obtain rfl := Except.ok.inj ((hf.memRead (o := 26) (n := 4) (by omega)).symm.trans hsrc)
  obtain rfl := Except.ok.inj ((hf.memRead (o := 30) (n := 4) (by omega)).symm.trans hdst)
  obtain rfl := Except.ok.inj ((hf.memRead (o := framePayload f) (n := 4) hp).symm.trans hports)
  rw [htx, slice_append_slice f 26 4 4]
  rfl

section
variable {s : State} (h : s.Inv) (hs : s.env.script = []) (hop : s.lat.op = 0x1) (hwritten : s.operandsWritten)
include h hs hop hwritten

/-- At the command word the frame is read only where its length is acceptable (41_dispatch R174). -/
theorem State.Inv.proc_finishes (hphase : s.phase = .busy .c) : s.Finishes := by
  by_cases hmax : s.lat.frameLen.toNat ≤ s.cfg.rxBufBytes
  · obtain ⟨f, hf⟩ := hwritten.1 hop hmax
    have hlen := State.memRead_length hf
    exact (State.runs_proc h.params hphase hop hs hlen fun _ _ => hlen ▸ hf).finishes
  · have hlen : (List.replicate s.lat.frameLen.toNat (0x00 : Byte)).length = s.lat.frameLen.toNat :=
      List.length_replicate
    exact (State.runs_proc h.params hphase hop hs hlen fun _ hle => absurd (hlen ▸ hle) hmax).finishes

/-- At a wire encoding the invariant says which checks the frame has met, and so which run is the rest. -/
theorem State.Inv.wire_finishes {e : Format} (hphase : s.phase = .busy e) (hwire : e ≠ .c) : s.Finishes := by
  have hprocessing (hbound : s.frameLenOk) : ∃ f, s.Processing e f := by
    obtain ⟨f, hf⟩ := hwritten.1 hop hbound.2
    exact ⟨f, h.params, hphase, hs, hf⟩
  have hframe := h.frame
  simp only [State.frameOk, hphase] at hframe
  cases e with
  | c => exact absurd rfl hwire
  | ethClass =>
    obtain ⟨hbound, hclass⟩ := hframe
    obtain ⟨f, hproc⟩ := hprocessing hbound
    have hmin : 14 ≤ f.length := hproc.length ▸ hbound.1
    have htype := hproc.hasFrame.etherType hmin
    rcases hclass with ⟨hip, -⟩ | ⟨harp, -⟩
    · exact (hproc.runs_ipv4 (Except.ok.inj (htype.symm.trans hip)) hmin 1).finishes
    · exact (hproc.runs_arp (Except.ok.inj (htype.symm.trans harp)) hmin 3).finishes
  | ipProto =>
    obtain ⟨ihl, hip, hproto⟩ := hframe
    obtain ⟨f, hproc⟩ := hprocessing hip.frameLen
    have hmin : 34 ≤ f.length := hproc.length ▸ hip.min
    have hbyte := hproc.hasFrame.readByte (o := 23) (by omega)
    obtain ⟨rfl, hfive⟩ := State.ipHeaderOk.eq_frameIhl hip hproc.hasFrame hmin
    rcases hproto with hicmp | hudp
    · exact (hproc.runs_icmp (Except.ok.inj (hbyte.symm.trans hicmp)) hmin hfive 2).finishes
    · exact (hproc.runs_udp (Except.ok.inj (hbyte.symm.trans hudp)) hmin 2).finishes
  | icmpType =>
    obtain ⟨ihl, tl, hip, hpay, htype⟩ := hframe
    obtain ⟨f, hproc⟩ := hprocessing hip.frameLen
    have hmin : 34 ≤ f.length := hproc.length ▸ hip.min
    obtain ⟨rfl, hfive⟩ := State.ipHeaderOk.eq_frameIhl hip hproc.hasFrame hmin
    obtain rfl := State.payloadOk.eq_frameTotalLen hpay hproc.hasFrame hmin
    obtain ⟨-, hshort, hlong⟩ := hpay
    rw [hproc.length] at hlong
    have hbyte := hproc.hasFrame.readByte (o := framePayload f) (by simp only [framePayload]; omega)
    exact (hproc.runs_echo (Except.ok.inj (hbyte.symm.trans htype)) hfive hshort hlong 3).finishes
  | udpCsum =>
    obtain ⟨ihl, tl, len, hip, hpay, hlen, hudpMin, hudpMax, hph⟩ := hframe
    obtain ⟨f, hproc⟩ := hprocessing hip.frameLen
    have hmin : 34 ≤ f.length := hproc.length ▸ hip.min
    obtain ⟨rfl, -⟩ := State.ipHeaderOk.eq_frameIhl hip hproc.hasFrame hmin
    obtain rfl := State.payloadOk.eq_frameTotalLen hpay hproc.hasFrame hmin
    obtain ⟨-, hshort, hlong⟩ := hpay
    rw [hproc.length] at hlong
    have hp : framePayload f = 14 + 4 * frameIhl f := rfl
    obtain rfl := Except.ok.inj (hlen.symm.trans (hproc.hasFrame.udpLength (by omega)))
    have htx := State.pseudoHeaderOk.header hproc.hasFrame hmin (by omega) hph
    exact (hproc.runs_udpCsum htx (by omega) hudpMin (by omega) 3).finishes

end

/-- Settles O45: the command's kind and encoding say which run ends it; that the end has an outcome is the
invariant's in IDLE. -/
theorem everyCommandFinishes : Obligations.EveryCommandFinishes := by
  unfold Obligations.EveryCommandFinishes
  intro s h hbusy hwritten hs
  obtain ⟨e, hphase⟩ := Phase.isBusy_eq_true hbusy
  have hlatch := h.latch
  simp only [State.latchOk, hphase] at hlatch
  have hfinishes : s.Finishes := by
    by_cases hc : e = .c
    · subst hc
      rcases hlatch with hop | hop | hop
      · exact h.proc_finishes hs hop hwritten hphase
      · exact State.csum_finishes hphase hs hwritten hop
      · exact State.csum2_finishes hphase hs hwritten hop
    · have hop : s.lat.op = 0x1 := by
        cases e with
        | c => exact absurd rfl hc
        | _ => exact hlatch
      exact h.wire_finishes hs hop hwritten hphase hc
  obtain ⟨t, code, ht, hended⟩ := hfinishes
  have hinv := runFor_inv h ht
  have hstatus := hinv.status
  simp only [State.statusOk, hended.phase] at hstatus
  exact ⟨t, ht, hended.phase, hended.done, hstatus.1 hended.done, hinv⟩

end Sys2Proof.Machine
end


section
/-! PROOF. The ARP responder: its checks and its reply, and what it leaves unchanged (42_arp R190-R199,
70_reset R297). -/

namespace Sys2Proof.Machine

/-! ### The reply -/

theorem firstFailing_cons_eq_none {c : Prop} [Decidable c] {code : OutcomeCode} {rest : List (Bool × OutcomeCode)} :
    firstFailing ((decide c, code) :: rest) = none ↔ ¬c ∧ firstFailing rest = none := by
  by_cases hc : c <;> simp [firstFailing, hc]

/-- What a command has met after its checks can be restated knowing that all of them passed. -/
theorem State.Checked.imp {s t : State} {checks : List (Bool × OutcomeCode)} {Q : State → Prop} {r : Prop}
    (h : s.Checked checks Q t) (hr : firstFailing checks = none → Q t → r) :
    match firstFailing checks with
    | some code => s.Dropped t code
    | none => r := by
  obtain ⟨hresult⟩ := h
  cases hfirst : firstFailing checks with
  | none => exact hr hfirst (by simpa only [hfirst] using hresult)
  | some code => simpa only [hfirst] using hresult

/-- The reply to a frame with nothing past the fields of the request (42_arp R197). -/
theorem arpReplyFrame_of_length {mac f : List Byte} (hlen : f.length = 42) :
    arpReplyFrame mac f = slice f 6 6 ++ mac ++ slice f 12 8 ++ [0x00, 0x02] ++ mac ++ slice f 38 4 ++ slice f 22 6
      ++ slice f 28 4 := by
  rw [arpReplyFrame, List.drop_eq_nil_of_le hlen.le, List.append_nil]

/-- Settles O14: the 42 bytes are the frame of `execArpReq_checked`; a reply is only built of a frame that has passed
the length check, and so of these bytes. -/
theorem arpRequestAnswered : Obligations.ArpRequestAnswered := by
  unfold Obligations.ArpRequestAnswered
  intro s f hframe
  obtain ⟨t, ht, hchecked⟩ := execArpReq_checked fun hmin =>
    ⟨State.hasFrame_of_memRead (hframe hmin), (State.memRead_length (hframe hmin)).ge⟩
  refine ⟨t, ht, hchecked.imp fun hpassed hreply => ?_⟩
  obtain ⟨hmin, -⟩ := firstFailing_cons_eq_none.1 hpassed
  have hlen := State.memRead_length (hframe (by omega))
  have hread := hreply.frame
  rw [State.HasFrame, arpReplyFrame_length rfl hlen.ge, hlen, arpReplyFrame_of_length hlen] at hread
  exact ⟨hreply.transmitted, hread, hlen ▸ hreply.past, hreply.tx⟩

/-! ### What it leaves unchanged -/

/-- What a command that answers a frame leaves alone when it drops the frame, or replies with changes at the offsets
of `p` only: every other RX byte, TX, every register but TX_INFO, ERR_BUSY, LAST_OP, the UDP port (70_reset R297). -/
structure State.ReplyKeeps (s t : State) (p : Nat → Prop) : Prop where
  rx : ∀ o, ¬p o → t.readByte .rx o = s.readByte .rx o
  tx : ∀ o, t.readByte .tx o = s.readByte .tx o
  regs : { t.regs with txLen := s.regs.txLen } = s.regs
  errBusy : t.status.errBusy = s.status.errBusy
  lastOp : t.status.lastOp = s.status.lastOp
  udpPending : t.ports.udpPending = s.ports.udpPending
  world : s.SameWorld t

section
variable {s t u : State} {p : Nat → Prop} {code : OutcomeCode}

theorem State.Dropped.replyKeeps (h : s.Dropped t code) : s.ReplyKeeps t p :=
  ⟨fun o _ => h.bytes .rx o, h.bytes .tx, by rw [h.regs], h.ended.errBusy, h.ended.lastOp, by rw [h.ports], h.world⟩

/-- The transmission itself writes no byte. -/
theorem State.ChangedOnly.replyKeeps {len : Half} (hchanged : s.ChangedOnly u .rx p) (hwrote : s.WroteBuffers u) :
    s.ReplyKeeps ((u.emitTransmit len).finish code) p := by
  have hsame : u.SameBytes ((u.emitTransmit len).finish code) := State.sameBytes_of_buffers rfl rfl rfl
  have h : s.Transmitted ((u.emitTransmit len).finish code) code len := hwrote.transmitted
  exact ⟨fun o ho => (hsame .rx o).trans (hchanged .rx o (.inr ho)),
    fun o => (hsame .tx o).trans (hchanged .tx o (.inl (by decide))),
    by rw [h.regs], h.ended.errBusy, h.ended.lastOp, by rw [h.ports], h.world⟩

/-- ARP_REQ drops the frame, or has changed the bytes of the reply it built (42_arp R197, R199). -/
theorem execArpReq_replyKeeps (h : execArpReq s = .next t) :
    s.ReplyKeeps t (fun o => o < 12 ∨ (20 ≤ o ∧ o < 42)) ∧ t.acc = s.acc := by
  rcases execArpReq_next h with ⟨code, rfl⟩ | ⟨u, hu, rfl⟩
  · exact ⟨(State.dropped_of_finish (.inl rfl)).replyKeeps, rfl⟩
  · exact ⟨(State.arpBuildReply_changedOnly hu).replyKeeps (.arpBuildReply hu), (State.arpBuildReply_acc hu :)⟩

end

/-- Settles O22. -/
theorem arpRequestFrame : Obligations.ArpRequestFrame := by
  unfold Obligations.ArpRequestFrame
  intro s t h
  obtain ⟨hkeeps, hacc⟩ := execArpReq_replyKeeps h
  exact ⟨hkeeps.rx, hkeeps.tx, hkeeps.regs, hacc, hkeeps.errBusy, hkeeps.lastOp, hkeeps.udpPending, hkeeps.world⟩

end Sys2Proof.Machine
end


section
/-! PROOF. The IPv4 validator: the list of its checks (43_ipv4 R211-R217). -/

namespace Sys2Proof.Machine

/-- Settles O15: `execIpv4Unicast_checked` walks through the checks on the frame's bytes. -/
theorem ipv4ValidatorChecks : Obligations.Ipv4ValidatorChecks := by
  unfold Obligations.Ipv4ValidatorChecks
  intro s f hframe
  obtain ⟨t, ht, hchecked⟩ := execIpv4Unicast_checked hframe
  exact ⟨t, ht, hchecked.result⟩

end Sys2Proof.Machine
end


section
/-! PROOF. The ICMP echo responder: its checks and its reply, and what it leaves unchanged (44_icmp R230-R240,
70_reset R297). -/

namespace Sys2Proof.Machine

/-! ### The checks and the reply -/

/-- Settles O16: the list of checks is `execIcmp_checked`; both ends of `execIcmp_next` leave ACC alone. -/
theorem icmpStageChecks : Obligations.IcmpStageChecks := by
  unfold Obligations.IcmpStageChecks
  intro s f hmin hframe
  obtain ⟨t, ht, hchecked⟩ := execIcmp_checked hmin hframe
  have hacc : t.acc = s.acc := by rcases execIcmp_next ht with rfl | ⟨code, rfl⟩ <;> rfl
  exact ⟨t, ht, hacc, hchecked.result⟩

/-- Settles O17: the one check of `execIcmpEchoReq_checked` drops the frame or has turned it into the reply. -/
theorem echoRequestAnswered : Obligations.EchoRequestAnswered := by
  unfold Obligations.EchoRequestAnswered
  intro s f hframe hihl hmin hmsg
  obtain ⟨t, ht, hchecked⟩ := execIcmpEchoReq_checked hframe hihl hmin hmsg
  refine ⟨t, ht, ?_⟩
  have hlen := State.memRead_length hframe
  cases hpass : verifies f (14 + 4 * frameIhl f) (frameTotalLen f - 4 * frameIhl f) (14 + 4 * frameIhl f + 2) with
  | false => exact (State.checked_cons_true (by rw [framePayload, hpass]; rfl)).1 hchecked
  | true =>
    have hreply := ((State.checked_cons_false (by rw [framePayload, hpass]; rfl)).1 hchecked).met
    have hread := hreply.frame
    rw [State.HasFrame, echoReplyFrame_length (by omega) hihl, hlen] at hread
    exact ⟨hreply.transmitted, hread, hlen ▸ hreply.past, hreply.tx⟩

/-! ### What it leaves unchanged -/

/-- ICMP_ECHO_REQ drops the frame, or has changed the bytes of the reply it built (44_icmp R240 (d)). -/
theorem execIcmpEchoReq_replyKeeps {s t : State} {ihl : Nat} (hihl : s.ihl = .ok ihl)
    (h : execIcmpEchoReq s = .next t) :
    s.ReplyKeeps t fun o => o < 12 ∨ (24 ≤ o ∧ o < 34) ∨ o = payloadOff ihl ∨ o = payloadOff ihl + 2
      ∨ o = payloadOff ihl + 3 := by
  rcases execIcmpEchoReq_next h with rfl | ⟨ihl', tl, u, hihl', -, hu, rfl⟩
  · exact (State.dropped_of_finish (.inr rfl)).replyKeeps
  · obtain rfl : ihl = ihl' := Except.ok.inj (hihl.symm.trans hihl')
    exact (State.ChangedOnly.accRelease.trans (State.icmpBuildReply_changedOnly hu)).replyKeeps
      ((State.WroteBuffers.accRelease s).trans (.icmpBuildReply hu))

/-- Settles O21. -/
theorem echoRequestFrame : Obligations.EchoRequestFrame := by
  unfold Obligations.EchoRequestFrame
  intro s t ihl hihl h
  obtain ⟨rx, tx, regs, errBusy, lastOp, udpPending, world⟩ := execIcmpEchoReq_replyKeeps hihl h
  exact ⟨rx, tx, regs, errBusy, lastOp, udpPending, world⟩

end Sys2Proof.Machine
end


section
/-! PROOF. The echo reply as a byte list: both its checksums verify, the IPv4 one is the received one, and the ICMP
one follows from the request's (44_icmp R240). -/

namespace Sys2Proof.Machine

/-! ### Fields and slices of a byte list -/

theorem byteAt_congr {f g : List Byte} {a : Nat} (h : g[a]? = f[a]?) : byteAt g a = byteAt f a := by
  rw [byteAt, byteAt, List.getD_eq_getElem?_getD, h, ← List.getD_eq_getElem?_getD]

theorem slice_congr {f g : List Byte} {o p n : Nat} (h : ∀ k < n, g[o + k]? = f[p + k]?) :
    slice g o n = slice f p n := by
  refine List.ext_getElem? fun k => ?_
  rw [slice_getElem?, slice_getElem?]
  by_cases hk : k < n
  · rw [if_pos hk, if_pos hk, h k hk]
  · rw [if_neg hk, if_neg hk]

theorem setHalf_getElem? (f : List Byte) (fld : Nat) (v : Half) (a : Nat) :
    (setHalf f fld v)[a]? = if fld ≤ a ∧ a < fld + 2 ∧ a < f.length then (halfBytes v)[a - fld]? else f[a]? := by
  rw [setHalf_eq_overwrite, overwrite_getElem?, halfBytes_length]

theorem setHalf_getElem?_of_apart {f : List Byte} {fld a : Nat} {v : Half} (h : a < fld ∨ fld + 2 ≤ a) :
    (setHalf f fld v)[a]? = f[a]? := by
  rw [setHalf_getElem?, if_neg (by omega)]

/-- A stored field reads back. -/
theorem halfAt_setHalf {f : List Byte} {fld : Nat} (v : Half) (h : fld + 2 ≤ f.length) :
    halfAt (setHalf f fld v) fld = v := by
  have hbyte (k : Nat) (hk : k < 2) : byteAt (setHalf f fld v) (fld + k) = byteAt (halfBytes v) k := by
    simp only [byteAt, List.getD_eq_getElem?_getD]
    rw [setHalf_getElem?, if_pos (by omega), Nat.add_sub_cancel_left]
  rw [halfAt, hbyte 1 (by decide), show byteAt (setHalf f fld v) fld = _ from hbyte 0 (by decide)]
  exact BitVec.extractLsb'_append_extractLsb'_eq_extractLsb' (by omega) |>.trans (by simp)

/-- A stored field leaves a field apart from it alone. -/
theorem halfAt_setHalf_of_apart {f : List Byte} {fld o : Nat} {v : Half} (h : o + 2 ≤ fld ∨ fld + 2 ≤ o) :
    halfAt (setHalf f fld v) o = halfAt f o := by
  rw [halfAt, byteAt_congr (setHalf_getElem?_of_apart (by omega)), byteAt_congr (setHalf_getElem?_of_apart (by omega))]
  rfl

/-- A region's first word is its first two bytes (40_checksum R142). -/
theorem beWords_slice_add_two {f : List Byte} {o : Nat} (h : o + 2 ≤ f.length) (n : Nat) :
    beWords (slice f o (2 + n)) = halfAt f o :: beWords (slice f (o + 2) n) := by
  have hpair : slice f o 2 = [byteAt f o, byteAt f (o + 1)] := by
    refine List.ext_getElem (slice_length h) fun k hk _ => ?_
    obtain rfl | rfl : k = 0 ∨ k = 1 := by rw [slice_length h] at hk; omega
    · simp [slice, byteAt_eq_getElem (show o < f.length by omega)]
    · simp [slice, byteAt_eq_getElem (show o + 1 < f.length by omega)]
  rw [← slice_append_slice, hpair]
  rfl

/-! ### Checksums of a region with a field read as zero -/

/-- The stored value of the field is not summed (40_checksum R145). -/
theorem zeroFieldChecksum_setHalf (f : List Byte) (o n fld : Nat) (v : Half) :
    zeroFieldChecksum (setHalf f fld v) o n fld = zeroFieldChecksum f o n fld := by
  rw [zeroFieldChecksum, setHalf_setHalf, ← zeroFieldChecksum]

/-- A field stored past the region or before it is not summed. -/
theorem zeroFieldChecksum_setHalf_outside {f : List Byte} {o n fld p : Nat} {v : Half}
    (h : p + 2 ≤ o ∨ o + n ≤ p) :
    zeroFieldChecksum (setHalf f p v) o n fld = zeroFieldChecksum f o n fld := by
  have hslice : slice (setHalf (setHalf f p v) fld 0x0000) o n = slice (setHalf f fld 0x0000) o n :=
    slice_congr fun k hk => by
      rw [setHalf_getElem? (setHalf f p v), setHalf_getElem? f fld, setHalf_length,
        setHalf_getElem?_of_apart (by omega)]
  rw [zeroFieldChecksum, hslice, ← zeroFieldChecksum]

/-- A regenerated field holds the checksum (40_checksum R151). -/
theorem halfAt_regenerated {f : List Byte} {fld : Nat} (o n : Nat) (h : fld + 2 ≤ f.length) :
    halfAt (regenerated f o n fld) fld = zeroFieldChecksum f o n fld := halfAt_setHalf _ h

/-- A regenerated region verifies (40_checksum R152). -/
theorem verifies_regenerated {f : List Byte} {fld : Nat} (o n : Nat) (h : fld + 2 ≤ f.length) :
    verifies (regenerated f o n fld) o n fld = true := by
  rw [verifies, halfAt_regenerated o n h, regenerated, zeroFieldChecksum_setHalf]
  exact decide_eq_true rfl

/-- A field stored outside the region and apart from its checksum changes no verification. -/
theorem verifies_setHalf_outside {f : List Byte} {o n fld p : Nat} {v : Half} (h : p + 2 ≤ o ∨ o + n ≤ p)
    (hfld : fld + 2 ≤ p ∨ p + 2 ≤ fld) : verifies (setHalf f p v) o n fld = verifies f o n fld := by
  rw [verifies, zeroFieldChecksum_setHalf_outside h, halfAt_setHalf_of_apart hfld, ← verifies]

/-- Two neighbouring runs of whole words may be exchanged in a checksum (40_checksum R146 (d)). -/
theorem inet_beWords_exchange {head x y : List Byte} {l m n : Nat} (hhead : head.length = 2 * l)
    (hx : x.length = 2 * m) (hy : y.length = 2 * n) (rest : List Byte) :
    inet (beWords (head ++ x ++ y ++ rest)) = inet (beWords (head ++ y ++ x ++ rest)) := by
  have hwords {u v : List Byte} {j k : Nat} (hu : u.length = 2 * j) (hv : v.length = 2 * k) :
      beWords (head ++ u ++ v ++ rest) = beWords head ++ (beWords u ++ (beWords v ++ beWords rest)) := by
    rw [List.append_assoc, List.append_assoc, beWords_append hhead, beWords_append hu, beWords_append hv]
  rw [hwords hx hy, hwords hy hx, inet, inet]
  congr 1
  refine ocsum_perm (.append_left _ ?_)
  rw [← List.append_assoc, ← List.append_assoc]
  exact .append_right _ List.perm_append_comm

/-! ### The swapped frame -/

section
variable {f : List Byte} (hihl : 5 ≤ frameIhl f) (hmin : 4 * frameIhl f + 8 ≤ frameTotalLen f)
  (hmsg : 14 + frameTotalLen f ≤ f.length)
include hihl hmin hmsg

/-- The echo request's header and the first eight bytes of its message lie inside the frame. -/
theorem echo_bounds : 34 ≤ framePayload f ∧ framePayload f + 8 ≤ f.length := by
  simp only [framePayload]
  omega

theorem echoSwapped_length : (echoSwapped f).length = f.length := by
  rw [← exchange_eq_echoSwapped (by omega) hihl]
  simp

/-- The swapped frame behind its MAC addresses (44_icmp R234, R236). -/
theorem echoSwapped_getElem? {a : Nat} (ha : 12 ≤ a) :
    (echoSwapped f)[a]? = if a = framePayload f then some 0x00
      else if 26 ≤ a ∧ a < 30 then f[30 + (a - 26)]? else if 30 ≤ a ∧ a < 34 then f[26 + (a - 30)]? else f[a]? := by
  obtain ⟨hp, hin⟩ := echo_bounds hihl hmin hmsg
  have hmacs := exchange_getElem? (f := f.set (framePayload f) 0x00) (o := 0) (p := 6) (n := 6) le_rfl (by simp; omega)
  rw [← exchange_eq_echoSwapped (by omega) hihl, exchange_getElem? (by omega) (by simp; omega)]
  simp only [hmacs, List.getElem?_set]
  grind

/-- Behind the MAC addresses only the IP addresses and the message's type change. -/
theorem echoSwapped_kept {a : Nat} (h : 12 ≤ a) (haddr : a < 26 ∨ 34 ≤ a) (htype : a ≠ framePayload f) :
    (echoSwapped f)[a]? = f[a]? := by
  rw [echoSwapped_getElem? hihl hmin hmsg h, if_neg htype, if_neg (by omega), if_neg (by omega)]

/-! ### The IPv4 checksum -/

/-- The swap of the addresses leaves the header's checksum as it was (44_icmp R237, R240 (a)). -/
theorem echoSwapped_ipChecksum :
    zeroFieldChecksum (echoSwapped f) 14 (4 * frameIhl f) 24 = zeroFieldChecksum f 14 (4 * frameIhl f) 24 := by
  obtain ⟨hp, hin⟩ := echo_bounds hihl hmin hmsg
  have hpay : framePayload f = 14 + 4 * frameIhl f := rfl
  have hlen := echoSwapped_length hihl hmin hmsg
  have hparts (g : List Byte) : slice g 14 (4 * frameIhl f)
      = slice g 14 12 ++ slice g 26 4 ++ slice g 30 4 ++ slice g 34 (4 * frameIhl f - 20) := by
    rw [slice_append_slice g 14 12 4, slice_append_slice g 14 16 4, slice_append_slice g 14 20,
      Nat.add_sub_cancel' (by omega)]
  have hfixed : slice (setHalf (echoSwapped f) 24 0x0000) 14 12 = slice (setHalf f 24 0x0000) 14 12 :=
    slice_congr fun k hk => by
      rw [setHalf_getElem?, setHalf_getElem?, hlen, echoSwapped_kept hihl hmin hmsg] <;> omega
  have hrest : slice (setHalf (echoSwapped f) 24 0x0000) 34 (4 * frameIhl f - 20)
      = slice (setHalf f 24 0x0000) 34 (4 * frameIhl f - 20) :=
    slice_congr fun k hk => by
      rw [setHalf_getElem?_of_apart, setHalf_getElem?_of_apart, echoSwapped_kept hihl hmin hmsg] <;> omega
  have hsrc : slice (setHalf (echoSwapped f) 24 0x0000) 26 4 = slice (setHalf f 24 0x0000) 30 4 :=
    slice_congr fun k hk => by
      rw [setHalf_getElem?_of_apart (by omega), setHalf_getElem?_of_apart (by omega),
        echoSwapped_getElem? hihl hmin hmsg (by omega), if_neg (by omega), if_pos (by omega), Nat.add_sub_cancel_left]
  have hdst : slice (setHalf (echoSwapped f) 24 0x0000) 30 4 = slice (setHalf f 24 0x0000) 26 4 :=
    slice_congr fun k hk => by
      rw [setHalf_getElem?_of_apart (by omega), setHalf_getElem?_of_apart (by omega),
        echoSwapped_getElem? hihl hmin hmsg (by omega), if_neg (by omega), if_neg (by omega), if_pos (by omega),
        Nat.add_sub_cancel_left]
  rw [zeroFieldChecksum, zeroFieldChecksum, hparts, hparts, hfixed, hrest, hsrc, hdst]
  refine inet_beWords_exchange (l := 6) (m := 2) (n := 2) ?_ ?_ ?_ _ <;>
    exact slice_length (by rw [setHalf_length]; omega)

/-! ### The reply's fields -/

/-- The reply's header keeps its fields before the checksum (44_icmp R240 (d)). -/
theorem echoReplyFrame_byteAt {a : Nat} (h : 12 ≤ a) (ha : a < 24) : byteAt (echoReplyFrame f) a = byteAt f a := by
  obtain ⟨hp, -⟩ := echo_bounds hihl hmin hmsg
  refine byteAt_congr ?_
  rw [echoReplyFrame, regenerated, regenerated, setHalf_getElem?_of_apart (by omega),
    setHalf_getElem?_of_apart (by omega), echoSwapped_kept hihl hmin hmsg h (by omega) (by omega)]

/-- The reply's IPv4 checksum is that of the request's header (44_icmp R237). -/
theorem halfAt_echoReplyFrame_ip :
    halfAt (echoReplyFrame f) 24 = zeroFieldChecksum f 14 (4 * frameIhl f) 24 := by
  obtain ⟨hp, hin⟩ := echo_bounds hihl hmin hmsg
  have hlen := echoSwapped_length hihl hmin hmsg
  rw [echoReplyFrame, regenerated, halfAt_setHalf_of_apart (by omega), halfAt_regenerated _ _ (by omega),
    echoSwapped_ipChecksum hihl hmin hmsg]

/-- The reply's ICMP checksum is that of the swapped frame's message: the header's checksum is no part of it
(44_icmp R238). -/
theorem halfAt_echoReplyFrame_icmp :
    halfAt (echoReplyFrame f) (framePayload f + 2) = zeroFieldChecksum (echoSwapped f) (framePayload f)
      (frameTotalLen f - 4 * frameIhl f) (framePayload f + 2) := by
  obtain ⟨hp, hin⟩ := echo_bounds hihl hmin hmsg
  have hlen := echoSwapped_length hihl hmin hmsg
  rw [echoReplyFrame, halfAt_regenerated _ _ (by rw [regenerated_length]; omega), regenerated,
    zeroFieldChecksum_setHalf_outside (by omega)]

/-! ### The ICMP checksum -/

/-- Only the type differs between the two messages, so the request's folded sum is the reply's and 0x0800
(44_icmp R240 (b)). -/
theorem ocsum_echoRequest (htype : byteAt f (framePayload f) = 8) :
    ocsum (beWords (slice (setHalf f (framePayload f + 2) 0x0000) (framePayload f) (frameTotalLen f - 4 * frameIhl f)))
      = ocadd 0x0800 (ocsum (beWords (slice (setHalf (echoSwapped f) (framePayload f + 2) 0x0000) (framePayload f)
          (frameTotalLen f - 4 * frameIhl f)))) := by
  obtain ⟨hp, hin⟩ := echo_bounds hihl hmin hmsg
  have hlen := echoSwapped_length hihl hmin hmsg
  have hkept {a : Nat} (ha : framePayload f < a) : (echoSwapped f)[a]? = f[a]? :=
    echoSwapped_kept hihl hmin hmsg (by omega) (by omega) (by omega)
  have hreplyType : byteAt (echoSwapped f) (framePayload f) = 0x00 := by
    rw [byteAt, List.getD_eq_getElem?_getD, echoSwapped_getElem? hihl hmin hmsg (by omega), if_pos rfl]
    rfl
  have hrequestWord : halfAt f (framePayload f) = 0x08#8 ++ byteAt f (framePayload f + 1) := by rw [halfAt, htype]; rfl
  have hreplyWord : halfAt (echoSwapped f) (framePayload f) = 0x00#8 ++ byteAt f (framePayload f + 1) := by
    rw [halfAt, hreplyType, byteAt_congr (hkept (by omega))]
    rfl
  have hrest : slice (setHalf (echoSwapped f) (framePayload f + 2) 0x0000) (framePayload f + 2)
        (frameTotalLen f - 4 * frameIhl f - 2)
      = slice (setHalf f (framePayload f + 2) 0x0000) (framePayload f + 2) (frameTotalLen f - 4 * frameIhl f - 2) :=
    slice_congr fun k _ => by rw [setHalf_getElem?, setHalf_getElem?, hlen, hkept (by omega)]
  have htypeWord : ∀ code : Byte, (0x08#8 ++ code : Half) = ocadd 0x0800 (0x00#8 ++ code) := by decide
  rw [show frameTotalLen f - 4 * frameIhl f = 2 + (frameTotalLen f - 4 * frameIhl f - 2) by omega,
    beWords_slice_add_two (by rw [setHalf_length]; omega), beWords_slice_add_two (by rw [setHalf_length]; omega),
    halfAt_setHalf_of_apart (by omega), halfAt_setHalf_of_apart (by omega), hrest, hrequestWord, hreplyWord, ocsum_cons,
    ocsum_cons, htypeWord, ocadd_assoc]

end

/-- The checksum of a message from that of the same message with 0x0800 more in its folded sum (44_icmp R240 (b)). -/
theorem inet_of_ocsum_eq_ocadd {ws vs : List Half} (h : ocsum ws = ocadd 0x0800 (ocsum vs)) :
    (inet ws < 0xF7FF → inet vs = inet ws + 0x0800) ∧ (0xF7FF < inet ws → inet vs = inet ws - 0xF7FF)
      ∧ (inet ws = 0xF7FF → (∀ w ∈ vs, w = 0x0000) → inet vs = 0xFFFF)
      ∧ (inet ws = 0xF7FF → ¬(∀ w ∈ vs, w = 0x0000) → inet vs = 0x0000)
      ∧ ((inet ws = 0xF7FF → ∀ w ∈ vs, w = 0x0000) → inet vs = ocadd (inet ws) 0x0800) := by
  have hws := inet_toNat ws
  have hvs := inet_toNat vs
  have hsum := (ocsum vs).isLt
  rw [h, ocadd_toNat, show (0x0800 : Half).toNat = 0x0800 from rfl] at hws
  refine ⟨fun hc => ?_, fun hc => ?_, fun _ => inet_eq_ffff_iff.2, fun hc hzero => ?_, fun hcase => ?_⟩
  · split at hws <;> bv_omega
  · split at hws <;> bv_omega
  · rw [← ocsum_eq_zero_iff] at hzero
    split at hws <;> bv_omega
  · rw [← ocsum_eq_zero_iff] at hcase
    apply BitVec.eq_of_toNat_eq
    rw [ocadd_toNat, show (0x0800 : Half).toNat = 0x0800 from rfl]
    split at hws <;> split <;> bv_omega

/-! ### The statements -/

/-- Settles O18: both checksums are regenerated, the ICMP one outside the header. -/
theorem echoReplyVerifies : Obligations.EchoReplyVerifies := by
  unfold Obligations.EchoReplyVerifies
  intro f hihl hmin hmsg
  obtain ⟨hp, hin⟩ := echo_bounds hihl hmin hmsg
  have hpay : framePayload f = 14 + 4 * frameIhl f := rfl
  have hlen := echoSwapped_length hihl hmin hmsg
  have hbyte {a : Nat} := echoReplyFrame_byteAt hihl hmin hmsg (a := a)
  refine ⟨echoReplyFrame_length (by omega) hihl, ?_, ?_, ?_, ?_⟩
  · rw [frameIhl, hbyte (by decide) (by decide), ← frameIhl]
  · rw [frameTotalLen, halfAt, hbyte (by decide) (by decide), hbyte (by decide) (by decide)]
    rfl
  · rw [echoReplyFrame, regenerated, verifies_setHalf_outside (by omega) (by omega)]
    exact verifies_regenerated _ _ (by omega)
  · exact verifies_regenerated _ _ (by rw [regenerated_length]; omega)

/-- Settles O19. -/
theorem echoReplyKeepsIpChecksum : Obligations.EchoReplyKeepsIpChecksum := by
  unfold Obligations.EchoReplyKeepsIpChecksum
  intro f hihl hmin hmsg hvalid
  exact (halfAt_echoReplyFrame_ip hihl hmin hmsg).trans (of_decide_eq_true hvalid)

/-- Settles O20: the request's and the reply's checksums are those of two messages whose folded sums differ by the
type word 0x0800. -/
theorem echoReplyIcmpChecksum : Obligations.EchoReplyIcmpChecksum := by
  unfold Obligations.EchoReplyIcmpChecksum
  intro f hihl hmin hmsg htype hvalid c c' allZero
  have hrequest : c = zeroFieldChecksum f (framePayload f) (frameTotalLen f - 4 * frameIhl f) (framePayload f + 2) :=
    (of_decide_eq_true hvalid).symm
  have hreply : c' = _ := halfAt_echoReplyFrame_icmp hihl hmin hmsg
  rw [hrequest, hreply, not_and_not_right]
  exact inet_of_ocsum_eq_ocadd (ocsum_echoRequest hihl hmin hmsg htype)

end Sys2Proof.Machine
end


section
/-! PROOF. The UDP validator: the length checks and the pseudo-header, the hand-off and the checksum comparison, and
why the computed checksum is never 0xFFFF (45_udp R250-R257). -/

namespace Sys2Proof.Machine

/-! ### The pseudo-header -/

/-- Settles O23: `execUdp_checked` walks through the checks and builds the header; both ends of `execUdp_next` leave
ACC alone. -/
theorem udpStageBuildsPseudoHeader : Obligations.UdpStageBuildsPseudoHeader := by
  unfold Obligations.UdpStageBuildsPseudoHeader
  intro s f hparams hmin hframe
  obtain ⟨t, ht, hchecked⟩ := execUdp_checked (Params.wf_bounds hparams).2 hmin hframe
  have hacc : t.acc = s.acc := by
    rcases execUdp_next ht with ⟨code, rfl⟩ | ⟨ihl, len, u, -, -, hu, rfl⟩
    · rfl
    · exact (State.buildPseudoHeader_acc hu :)
  refine ⟨t, ht, hacc, hchecked.imp fun _ hbuilt => ?_⟩
  obtain ⟨phase, status, lat, regs, ports, world, header, tx, rx⟩ := hbuilt
  rw [slice_append_slice]
  exact ⟨phase, status, lat, regs, ports, world, header, tx, rx⟩

/-! ### The checksum rows -/

/-- Settles O24. -/
theorem udpZeroFieldHandsOff : Obligations.UdpZeroFieldHandsOff :=
  fun _ _ _ hihl hlen => execUdpCsumNone_handsOff hihl hlen

/-- Settles O25: both rows are the one check of `State.udpCompare_checked`, with the value they expect. -/
theorem udpChecksumComparison : Obligations.UdpChecksumComparison := by
  unfold Obligations.UdpChecksumComparison
  intro s ihl len ph pay hihl hlen hph hpay c
  have hcompare (expected : Half) : ∃ t, settle (s.udpCompare expected) = .next t
      ∧ (c = expected → s.HandedOff t (BitVec.ofNat 16 (14 + 4 * ihl)) len)
      ∧ (c ≠ expected → s.Dropped t .dropUdpCsum) := by
    obtain ⟨t, ht, hchecked⟩ := State.udpCompare_checked hihl hlen expected hph hpay
    exact ⟨t, ht, fun heq => (hchecked.later (not_not_intro heq)).met, hchecked.dropped⟩
  exact ⟨hcompare 0x0000, hcompare⟩

/-! ### The computed value -/

/-- A word is zero exactly when both its bytes are. -/
theorem byte_append_eq_zero_iff {a b : Byte} : (a ++ b : Half) = 0x0000 ↔ a = 0x00 ∧ b = 0x00 := by
  constructor
  · intro h
    have hnat := congrArg BitVec.toNat h
    rw [BitVec.toNat_append] at hnat
    simpa [Nat.or_eq_zero_iff, BitVec.toNat_eq] using hnat
  · rintro ⟨rfl, rfl⟩
    rfl

/-- The words of a list of bytes are zero exactly when its bytes are: every byte has its place in a word. -/
theorem forall_beWords_eq_zero_iff {bs : List Byte} : (∀ w ∈ beWords bs, w = 0x0000) ↔ ∀ b ∈ bs, b = 0x00 := by
  induction bs using beWords.induct with
  | case1 => simp [beWords]
  | case2 b =>
    simp only [beWords, List.forall_mem_singleton, byte_append_eq_zero_iff]
    exact and_iff_left rfl
  | case3 a b bs ih => simp only [beWords, List.forall_mem_cons, byte_append_eq_zero_iff, ih, and_assoc]

/-- The protocol byte 17 keeps the words of the pseudo-header from being all zero (45_udp R257). -/
theorem udpComputed_ne_ffff (f : List Byte) : udpComputed f ≠ 0xFFFF := by
  intro hffff
  have hzero : ∀ w ∈ beWords (pseudoHeader f), w = 0x0000 :=
    (List.forall_mem_append.1 (inet_eq_ffff_iff.1 hffff)).1
  have hproto : (17 : Byte) ∈ pseudoHeader f := by simp [pseudoHeader]
  exact absurd (forall_beWords_eq_zero_iff.1 hzero 17 hproto) (by decide)

/-- Settles O26: the remap changes the stored 0xFFFF alone. -/
theorem udpComputedNeverFfff : Obligations.UdpComputedNeverFfff := by
  unfold Obligations.UdpComputedNeverFfff
  intro f
  refine ⟨udpComputed_ne_ffff f, Iff.rfl, fun stored hstored => ?_⟩
  rw [udpRemap, if_neg hstored]

end Sys2Proof.Machine
end


section
/-! PROOF. The hazards of the host's side: the accesses refused while a command runs, RX held for the consumers, and
reset (70_reset R290, R295, R296). -/

namespace Sys2Proof.Machine

/-! ### Accesses while a command runs -/

theorem step_wb {s : State} {b : Buf} {off : Nat} {bs : List Byte} {rest : List EnvOp}
    (hs : s.env.script = .wb b off bs :: rest) : step s = (s.withScript rest).hostWriteBytes b off bs :=
  step_act hs (.inl (by simp)) (by simp)

/-- A platform write to a window is the write of its bytes (20_memory R77). -/
theorem step_store_window {s : State} {addr off : Nat} {w : Width} {v : Word} {b : Buf} {rest : List EnvOp}
    (hs : s.env.script = .store addr w v :: rest) (hr : s.resolve addr w = .ok (.window b off)) :
    step s = (s.withScript rest).hostWriteBytes b off (splitBytes s.cfg.hostEndian w v) :=
  (step_act hs (.inl (by simp)) (by simp)).trans (State.hostStore_window (by simpa using hr) v)

section
variable {s : State} (hbusy : s.phase.isBusy = true)
include hbusy

theorem State.writeReg_busy {r : Reg} (hr : r.writeNeedsIdle = true) (v : Word) :
    s.writeReg r v = .refused (.registerWriteWhileBusy r) := by
  have hcmd : r ≠ .cmd := by rintro rfl; cases hr
  have hstatus : r ≠ .status := by rintro rfl; cases hr
  exact (if_neg hcmd).trans ((if_neg hstatus).trans (if_pos (by rw [hr, hbusy]; rfl)))

theorem State.hostWriteBytes_busy (b : Buf) (off : Nat) (bs : List Byte) :
    s.hostWriteBytes b off bs = .refused (.bufferAccessWhileBusy b) := if_pos hbusy

theorem State.hostLoad_window_busy {addr off : Nat} {w : Width} {b : Buf}
    (hr : s.resolve addr w = .ok (.window b off)) :
    s.hostLoad addr w = .refused (.bufferAccessWhileBusy b) := by
  simp [State.hostLoad, hr, hbusy]

end

/-- Settles O33: a register write and a window access are refused by the operation each act comes to; the register
reads are those of O38. -/
theorem forbiddenAccessesWhileBusy : Obligations.ForbiddenAccessesWhileBusy := by
  unfold Obligations.ForbiddenAccessesWhileBusy
  intro s op rest hbusy hs
  have hbusy' : (s.withScript rest).phase.isBusy = true := hbusy
  have hread := (readsHaveNoSideEffect.2 s op rest hs).1
  refine ⟨fun r v hr hop => ?_, ?_, ?_, ?_, fun addr w r hop hr => hread r (.inr ⟨addr, w, hop, hr⟩),
    fun r hop => hread r (.inl hop)⟩
  · have hneeds : r.writeNeedsIdle = true := by
      clear hop
      revert r
      decide
    have hnames : s.NamesWrite op r v := by
      refine hop.imp_right ?_
      rintro ⟨addr, w, rfl, hres⟩
      obtain rfl := State.resolve_reg_width hres
      exact ⟨addr, rfl, hres⟩
    exact (step_of_namesWrite hs hnames).trans (State.writeReg_busy hbusy' hneeds v)
  · rintro b off bs rfl
    exact (step_wb hs).trans (State.hostWriteBytes_busy hbusy' b off bs)
  · rintro addr w v b off rfl hres
    exact (step_store_window hs hres).trans (State.hostWriteBytes_busy hbusy' b off _)
  · rintro addr w b off rfl hres
    exact (step_load hs).trans (State.hostLoad_window_busy hbusy' (by simpa using hres))

/-! ### RX held for its consumers -/

/-- Either port's pending event holds RX (70_reset R296). -/
theorem State.rxHeld_iff {s : State} :
    s.rxHeld = true ↔ s.ports.txPending ≠ none ∨ s.ports.udpPending ≠ none := by
  simp [State.rxHeld, Option.isSome_iff_ne_none]

section
variable {s : State} (hidle : s.phase = .idle)
include hidle

theorem State.hostWriteBytes_held {off : Nat} {bs : List Byte} (hin : off + bs.length ≤ s.size .rx)
    (hheld : s.rxHeld = true) : s.hostWriteBytes .rx off bs = .refused .rxNotConsumed :=
  (if_neg (by simp [hidle])).trans ((if_neg (by omega)).trans (if_pos (by rw [hheld]; rfl)))

theorem State.adapterTake_of_pending {len : Half} {f : List Byte} (hp : s.ports.txPending = some len)
    (hf : s.memRead .rx 0 len.toNat = .ok f) :
    s.adapterTake = .next { s with
      ports := { s.ports with txPending := none }, env := { s.env with sent := s.env.sent ++ [f] } } := by
  simp [State.adapterTake, hp, hidle, hf]

theorem State.udpTake_of_pending {off len : Half} {d : List Byte} (hp : s.ports.udpPending = some (off, len))
    (hd : s.memRead .rx off.toNat len.toNat = .ok d) :
    s.udpTake = .next { s with
      ports := { s.ports with udpPending := none }, env := { s.env with delivered := s.env.delivered ++ [d] } } := by
  simp [State.udpTake, hp, hidle, hd]

end

/-- Settles O37: both ways to write RX come to `hostWriteBytes`, inside RX by the statement or by what the address
reaches; a take that can read its bytes writes its port and the record of the outside world alone. -/
theorem rxHeldUntilTaken : Obligations.RxHeldUntilTaken := by
  unfold Obligations.RxHeldUntilTaken
  refine ⟨fun s op rest hidle hheld hs hop => ?_, fun s => State.rxHeld_iff,
    fun s len f rest hidle hs hp hf => ?_, fun s off len d rest hidle hs hp hd => ?_⟩
  · rcases hop with ⟨off, bs, rfl, hin⟩ | ⟨addr, w, v, off, rfl, hres⟩
    · exact (step_wb hs).trans (State.hostWriteBytes_held (s := s.withScript rest) hidle hin hheld)
    · obtain ⟨hw, hin⟩ := State.resolve_window hres
      rw [← splitBytes_length (v := v) s.cfg.hostEndian hw] at hin
      exact (step_store_window hs hres).trans
        (State.hostWriteBytes_held (s := s.withScript rest) hidle (by simpa using hin) hheld)
  · have htake := State.adapterTake_of_pending (s := s.withScript rest) hidle hp (by simpa using hf)
    exact ⟨_, (step_act hs (.inl (by simp)) (by simp)).trans htake, rfl, rfl, rfl, rfl,
      fun b => State.readByte_congr rfl (by cases b <;> rfl)⟩
  · have htake := State.udpTake_of_pending (s := s.withScript rest) hidle hp (by simpa using hd)
    exact ⟨_, (step_act hs (.inl (by simp)) (by simp)).trans htake, rfl, rfl, rfl, rfl,
      fun b => State.readByte_congr rfl (by cases b <;> rfl)⟩

/-! ### Reset -/

@[simp] theorem State.resetWith_mem (p : Params) (b : Buf) : (State.resetWith p).mem b = [] := by cases b <;> rfl

@[simp] theorem State.hardReset_mem (s : State) (b : Buf) : s.hardReset.mem b = [] := by cases b <;> rfl

theorem statusWord_reset : statusWord .idle Status.reset = 0x00000000 := by decide

theorem Region.zero_offWord : Region.zero.offWord = 0x00000000 := by decide

/-- Every register but the views of DEVICE_MAC reads 0 after reset (10_state R60). -/
theorem State.resetWith_readReg (p : Params) {r : Reg} (hhi : r ≠ .devMacHi) (hlo : r ≠ .devMacLo) :
    (State.resetWith p).readReg r = 0x00000000 := by
  cases r with
  | devMacHi => exact absurd rfl hhi
  | devMacLo => exact absurd rfl hlo
  | status => exact statusWord_reset
  | csAOff => exact Region.zero_offWord
  | csBOff => exact Region.zero_offWord
  | udpInfo => exact (by decide : ((0x0000 : Half) ++ (0x0000 : Half) : Word) = 0x00000000)
  | _ => rfl

/-- No byte of a buffer has a value after reset (log 5). -/
theorem State.resetWith_readByte {p : Params} {b : Buf} {o : Nat} (h : o < (State.resetWith p).size b) :
    (State.resetWith p).readByte b o = .error (.unwrittenByte b o) := by
  simp [State.readByte, h]

/-- Reset leaves the reset state's registers (70_reset R290). -/
theorem State.hardReset_readReg (s : State) (r : Reg) : s.hardReset.readReg r = (State.resetWith s.cfg).readReg r := by
  cases r <;> rfl

/-- Reset leaves the reset state's buffers (70_reset R290). -/
theorem State.hardReset_readByte (s : State) (b : Buf) (o : Nat) :
    s.hardReset.readByte b o = (State.resetWith s.cfg).readByte b o :=
  State.readByte_congr (s := State.resetWith s.cfg) (t := s.hardReset) rfl (by simp) o

theorem step_reset {s : State} {rest : List EnvOp} (hs : s.env.script = .reset :: rest) :
    step s = .next (s.withScript rest).hardReset :=
  step_act hs (.inl (by simp)) (by simp)

/-- Settles O40. -/
theorem resetAtAnyTime : Obligations.ResetAtAnyTime := by
  unfold Obligations.ResetAtAnyTime
  refine ⟨fun p => ?_, fun s rest hs => ?_⟩
  · exact ⟨rfl, rfl, fun _ => State.resetWith_readReg p, fun _ _ => State.resetWith_readByte, rfl⟩
  · exact ⟨_, step_reset hs, rfl, rfl, State.hardReset_readReg _, State.hardReset_readByte _, rfl, rfl⟩

end Sys2Proof.Machine
end
